-- ==== Sys2Proof/Word.lean ====
section
/-! DEFINITION. The word types of the block (00_scope.md R8: u8, u16; nothing is signed). -/

namespace Sys2Proof

/-- A `u8` of the spec (R8). -/
abbrev Byte := BitVec 8

/-- A `u16` of the spec (R8). -/
abbrev U16 := BitVec 16

/-- One RX command word `{op[1:0], data[7:0]}` (30_encoding.md R65). -/
abbrev CmdWord := BitVec 10

/-- The dispatch key `K = {st[3:0], op[1:0], data[7:0]}` (30_encoding.md R69). -/
abbrev Key := BitVec 14

/-- One word of the registry ROM (30_encoding.md R71). -/
abbrev RomWord := BitVec 56

end Sys2Proof
end

