-- ==== Sys2Proof/Config.lean ====
section
/-! DEFINITION. The configuration: what is fixed when the block is built (00_scope.md R5, R6), never run-time state
(10_state.md R24, 70_reset_and_hazards.md R173), and the free values. -/

namespace Sys2Proof

/-- The length rule of a registry entry (44_demux_length.md R121). -/
inductive LengthRule where
  /-- `Fixed(L)`: exactly `L` payload bytes. -/
  | fixed (L : U16)
  /-- `Trailing(P, W)`: `P` bytes, then a repeated group of `W`-byte elements. -/
  | trailing (P W : U16)
  deriving DecidableEq, Repr

/-- A trailing group has an element width of at least 1 (R6 (c)). -/
def LengthRule.legal : LengthRule → Bool
  | .fixed _ => true
  | .trailing _ W => W != 0

/-- Registry entry `{e_cls, e_id, e_rule}` (R121). -/
structure RegEntry where
  eCls : Byte
  eId : Byte
  eRule : LengthRule
  deriving DecidableEq, Repr

/-- The key of an entry: the exact pair (class, message ID) (R122). -/
def RegEntry.key (e : RegEntry) : Byte × Byte := (e.eCls, e.eId)

/-- `REGISTRY`: entries with unique keys (R6 (b)) and legal widths (R6 (c)). An illegal registry cannot be formed. -/
structure Registry where
  entries : List RegEntry
  unique : (entries.map RegEntry.key).Nodup
  widths : ∀ e ∈ entries, e.eRule.legal = true

/-- `N_DEF` (R5). -/
def Registry.nDef (r : Registry) : Nat := r.entries.length

/-- The registry without entries, legal by R5 (`0 ≤ N_DEF`). -/
def Registry.empty : Registry := { entries := [], unique := by simp, widths := by simp }

/-- The parameters of the block (R5). `P_CAP` is at most 65535 by its type (R6 (a)). -/
structure Config where
  sync1 : Byte
  sync2 : Byte
  rescanOnReject : Bool
  pCap : Fin 65536
  registry : Registry

/-- The parameters as a builder writes them, before R6 is checked. -/
structure RawConfig where
  sync1 : Byte
  sync2 : Byte
  rescanOnReject : Bool
  pCap : Nat
  romImage : List RomWord
  deriving DecidableEq, Repr

/-- Why a configuration is none of this block (R6, R71). -/
inductive ConfigError where
  /-- `P_CAP > 65535` (R6 (a)). -/
  | capacityTooLarge
  /-- A ROM word with a nonzero bit in 38:32 (R71). -/
  | reservedBits
  /-- `Fixed` with `e_w ≠ 0` (R71). -/
  | fixedWithWidth
  /-- `Trailing` with `e_w = 0` (R6 (c), R71). -/
  | zeroWidth
  /-- Two entries with one key (R6 (b)). -/
  | duplicateKey
  deriving DecidableEq, Repr

/-- `P_CAP`, OPEN (R5): any value 0..65535, log entry 1. -/
opaque Config.openCapacity : Fin 65536

/-- `RESCAN_ON_REJECT`, OPEN (R5, D5): either value, log entry 1. -/
opaque Config.openRescan : Bool

/-- The image of the registry ROM, OPEN (R5, R26): any list of words, log entries 1 and 2. -/
opaque Config.openRomImage : List RomWord

/-- FREE VALUE: what a buffer byte that nothing has written since power-on holds (10_state.md R31), log entry 9. -/
opaque Config.powerOnByte : Nat → Byte

/-- FREE VALUE: the n-th byte read outside a read window (20_memory.md R47), log entry 8. -/
opaque Config.freeByte : Nat → Byte

end Sys2Proof
end

