-- ==== Sys2Proof/Syntax.lean ====
section
/-! DEFINITION. The instructions: one constructor per row of spec/opcode_table.json, the forms their encodings take,
and the names under which decoding refuses. -/

namespace Sys2Proof

/-- The nine resting states of RX, in the order of their codes 0 to 8 (10_state.md R20). Codes 9 to 15 cannot be formed. -/
inductive RxState where
  | seekSync1 | seekSync2 | readClass | readId | readLenLow | readLenHigh | readPayload | readChecksumA | readChecksumB
  deriving DecidableEq, Repr

/-- The instruction set (00_scope.md R2): the three command rows (30_encoding.md R66), the eleven rows of the decode
table for `PUSH` by state (R69), and the transmit transaction (R70). -/
inductive Instr where
  /-- `PUSH b` as a command word (41_rx_parser.md R80). -/
  | push (b : Byte)
  /-- `FLUSH` (42_rx_control.md R100). The data bits are ignored, and kept so that no bit of the word is lost. -/
  | flush (data : Byte)
  /-- `RESERVED w`, the words 0x200 to 0x3FF (42_rx_control.md R101). -/
  | reserved (w : CmdWord)
  /-- `PUSH` of `SYNC1` in `SeekSync1` (R82). The row fixes the data bits. -/
  | pushSeekSync1Sync
  /-- `PUSH` of any other byte in `SeekSync1` (R82). -/
  | pushSeekSync1Other (b : Byte)
  /-- `PUSH` of `SYNC2` in `SeekSync2` (R83). The row fixes the data bits. -/
  | pushSeekSync2Sync
  /-- `PUSH` of any other byte in `SeekSync2` (R83). -/
  | pushSeekSync2Other (b : Byte)
  /-- `PUSH b` in `ReadClass` (R84). -/
  | pushReadClass (b : Byte)
  /-- `PUSH b` in `ReadId` (R85). -/
  | pushReadId (b : Byte)
  /-- `PUSH b` in `ReadLenLow` (R86). -/
  | pushReadLenLow (b : Byte)
  /-- `PUSH b` in `ReadLenHigh` (R87). -/
  | pushReadLenHigh (b : Byte)
  /-- `PUSH b` in `ReadPayload` (R88). -/
  | pushReadPayload (b : Byte)
  /-- `PUSH b` in `ReadChecksumA` (R89). -/
  | pushReadChecksumA (b : Byte)
  /-- `PUSH b` in `ReadChecksumB` (R90). -/
  | pushReadChecksumB (b : Byte)
  /-- `TX_FRAME(c, i, p)`, with `p` of any length (45_tx_framer.md R140). -/
  | txFrame (c i : Byte) (p : List Byte)
  deriving DecidableEq, Repr

/-- What an instruction looks like in the opcode table, by the table's three formats. -/
inductive Encoding where
  /-- Format CMD10: a word on the RX command port (R65). -/
  | cmd10 (w : CmdWord)
  /-- Format KEY14: the dispatch key of an RX step (R69). -/
  | key14 (k : Key)
  /-- Format TXN: the output bytes of a transmit transaction, first byte first (R60, R140). -/
  | txn (bytes : List Byte)
  deriving DecidableEq, Repr

/-- The rows 1 to 13 of the decode table (R69). -/
inductive KeyRowName where
  | seekSync1Sync | seekSync1Other | seekSync2Sync | seekSync2Other | readClass | readId | readLenLow | readLenHigh
  | readPayload | readChecksumA | readChecksumB | flushRow | reservedRow
  deriving DecidableEq, Repr

/-- One row of the decode table (R69): it selects a key `k` when `k &&& mask = pattern`. -/
structure KeyRow where
  name : KeyRowName
  pattern : Key
  mask : Key
  deriving DecidableEq, Repr

/-- Why bits stand for no instruction. -/
inductive DecodeError where
  /-- A key with a state code of 9 to 15 and op 00: no row matches (R69). -/
  | reservedStateCode
  /-- Transaction bytes too short for a header. -/
  | truncatedFrame
  /-- Transaction bytes that do not begin with `SYNC1 SYNC2` (R60). -/
  | noSyncPair
  /-- Transaction bytes whose number is not `len + 8` (R60). -/
  | wrongFrameLength
  /-- Transaction bytes whose trailer is not the checksum of the covered bytes (R61). -/
  | wrongChecksum
  deriving DecidableEq, Repr

end Sys2Proof
end

