-- ==== Sys2Proof/WellFormed.lean ====
section
/-! DEFINITION. Which terms of `Instr` are what their row of the opcode table says, under a configuration. -/

namespace Sys2Proof

/-- A term is well-formed when its operands are ones its row admits: the rows are tried in order (30_encoding.md R69),
so an `other` row never carries the byte of the `sync` row before it, and a reserved word has `op = 1x` (R66). -/
def Instr.wellFormed (cfg : Config) : Instr → Bool
  | .push _ => true
  | .flush _ => true
  | .reserved w => w.getLsbD 9
  | .pushSeekSync1Sync => true
  | .pushSeekSync1Other b => b != cfg.sync1
  | .pushSeekSync2Sync => true
  | .pushSeekSync2Other b => b != cfg.sync2
  | .pushReadClass _ => true
  | .pushReadId _ => true
  | .pushReadLenLow _ => true
  | .pushReadLenHigh _ => true
  | .pushReadPayload _ => true
  | .pushReadChecksumA _ => true
  | .pushReadChecksumB _ => true
  | .txFrame _ _ _ => true

end Sys2Proof
end

