-- ==== Sys2Proof/Decode.lean ====
section
/-! DEFINITION. Decoding and encoding: the command word (30_encoding.md R65, R66), the dispatch key and its table (R69),
the frame (R60 to R62) with its checksum (43_checksum.md R110), the registry ROM word (R71), and the block's own
configuration built from them. -/

namespace Sys2Proof

/-! ## Bytes of a u16 -/

/-- Bits 7:0. -/
def lowByte (v : U16) : Byte := v.extractLsb' 0 8

/-- Bits 15:8. -/
def highByte (v : U16) : Byte := v.extractLsb' 8 8

/-- `{hi, lo}`: a little-endian pair of bytes as a u16 (20_memory.md R41, 30_encoding.md R62). -/
def u16OfBytes (lo hi : Byte) : U16 := hi ++ lo

/-! ## The checksum function -/

/-- One turn of the loop of `CK`: `B` takes the `A` just updated (R110). -/
def ckStep (acc : Byte × Byte) (b : Byte) : Byte × Byte := (acc.1 + b, acc.2 + (acc.1 + b))

/-- `CK(s)` (R110): two running sums modulo 256, both from 0. -/
def ck (s : List Byte) : Byte × Byte := s.foldl ckStep (0, 0)

/-! ## State codes -/

/-- The 4-bit code of a state (10_state.md R20). -/
def RxState.code : RxState → BitVec 4
  | .seekSync1 => 0
  | .seekSync2 => 1
  | .readClass => 2
  | .readId => 3
  | .readLenLow => 4
  | .readLenHigh => 5
  | .readPayload => 6
  | .readChecksumA => 7
  | .readChecksumB => 8

/-- The state of a code; none for 9 to 15, which are never written (R20). -/
def RxState.ofCode (c : BitVec 4) : Option RxState :=
  [RxState.seekSync1, .seekSync2, .readClass, .readId, .readLenLow, .readLenHigh, .readPayload, .readChecksumA,
    .readChecksumB].find? (fun st => st.code == c)

/-! ## The command word -/

/-- Bits 9:8, the command selector (R65). -/
def cmdOp (w : CmdWord) : BitVec 2 := w.extractLsb' 8 2

/-- Bits 7:0, the byte (R65). -/
def cmdData (w : CmdWord) : Byte := w.extractLsb' 0 8

/-- `{op, data}` (R65). -/
def cmdWord (op : BitVec 2) (data : Byte) : CmdWord := op ++ data

/-- The selector table (R66): total on the 1024 words. -/
def decodeCommand (w : CmdWord) : Instr :=
  match cmdOp w with
  | 0b00#2 => .push (cmdData w)
  | 0b01#2 => .flush (cmdData w)
  | _ => .reserved w

/-! ## The dispatch key -/

/-- `{st[3:0], op[1:0], data[7:0]}` (R69). -/
def keyOf (st : BitVec 4) (w : CmdWord) : Key := st ++ w

/-- Bits 13:10 of a key. -/
def keyState (k : Key) : BitVec 4 := k.extractLsb' 10 4

/-- Bits 9:0 of a key: the command word. -/
def keyCommand (k : Key) : CmdWord := k.extractLsb' 0 10

/-- The decode table of R69, in its order. Rows 1 and 3 carry the configuration's sync bytes. -/
def keyTable (cfg : Config) : List KeyRow :=
  [ { name := .seekSync1Sync,  pattern := keyOf 0 (cmdWord 0 cfg.sync1), mask := 0x3FFF },
    { name := .seekSync1Other, pattern := 0x0000, mask := 0x3F00 },
    { name := .seekSync2Sync,  pattern := keyOf 1 (cmdWord 0 cfg.sync2), mask := 0x3FFF },
    { name := .seekSync2Other, pattern := 0x0400, mask := 0x3F00 },
    { name := .readClass,      pattern := 0x0800, mask := 0x3F00 },
    { name := .readId,         pattern := 0x0C00, mask := 0x3F00 },
    { name := .readLenLow,     pattern := 0x1000, mask := 0x3F00 },
    { name := .readLenHigh,    pattern := 0x1400, mask := 0x3F00 },
    { name := .readPayload,    pattern := 0x1800, mask := 0x3F00 },
    { name := .readChecksumA,  pattern := 0x1C00, mask := 0x3F00 },
    { name := .readChecksumB,  pattern := 0x2000, mask := 0x3F00 },
    { name := .flushRow,       pattern := 0x0100, mask := 0x0300 },
    { name := .reservedRow,    pattern := 0x0200, mask := 0x0200 } ]

/-- The instruction a row stands for, with the operands taken from the key. -/
def keyRowInstr (name : KeyRowName) (k : Key) : Instr :=
  match name with
  | .seekSync1Sync => .pushSeekSync1Sync
  | .seekSync1Other => .pushSeekSync1Other (cmdData (keyCommand k))
  | .seekSync2Sync => .pushSeekSync2Sync
  | .seekSync2Other => .pushSeekSync2Other (cmdData (keyCommand k))
  | .readClass => .pushReadClass (cmdData (keyCommand k))
  | .readId => .pushReadId (cmdData (keyCommand k))
  | .readLenLow => .pushReadLenLow (cmdData (keyCommand k))
  | .readLenHigh => .pushReadLenHigh (cmdData (keyCommand k))
  | .readPayload => .pushReadPayload (cmdData (keyCommand k))
  | .readChecksumA => .pushReadChecksumA (cmdData (keyCommand k))
  | .readChecksumB => .pushReadChecksumB (cmdData (keyCommand k))
  | .flushRow => .flush (cmdData (keyCommand k))
  | .reservedRow => .reserved (keyCommand k)

/-- Dispatch on the key: the rows are tried in order and the first that matches selects (R69). -/
def decodeKey (cfg : Config) (k : Key) : Except DecodeError Instr :=
  match (keyTable cfg).find? (fun r => k &&& r.mask == r.pattern) with
  | some r => .ok (keyRowInstr r.name k)
  | none => .error .reservedStateCode

/-! ## The frame -/

/-- The four header bytes of a frame (R60, R140): class, message ID, length little-endian. -/
def frameHeader (c i : Byte) (n : U16) : List Byte := [c, i, lowByte n, highByte n]

/-- The checksummed sequence of a frame (43_checksum.md R111). -/
def coveredBytes (c i : Byte) (p : List Byte) : List Byte := frameHeader c i (BitVec.ofNat 16 p.length) ++ p

/-- `FRAME(c, i, p)` (45_tx_framer.md R140), meant for `|p| ≤ 65535`. -/
def frame (cfg : Config) (c i : Byte) (p : List Byte) : List Byte :=
  [cfg.sync1, cfg.sync2] ++ coveredBytes c i p ++ [(ck (coveredBytes c i p)).1, (ck (coveredBytes c i p)).2]

/-- The transaction whose output the given bytes are: the table's format TXN read backwards. -/
def decodeFrame (cfg : Config) (bytes : List Byte) : Except DecodeError Instr :=
  match bytes with
  | s1 :: s2 :: c :: i :: lo :: hi :: rest =>
    if s1 != cfg.sync1 || s2 != cfg.sync2 then .error .noSyncPair
    else
      let p := rest.take (u16OfBytes lo hi).toNat
      match rest.drop (u16OfBytes lo hi).toNat with
      | [a, b] => if (a, b) == ck ([c, i, lo, hi] ++ p) then .ok (.txFrame c i p) else .error .wrongChecksum
      | _ => .error .wrongFrameLength
  | _ => .error .truncatedFrame

/-! ## All formats -/

/-- The decoder, total on every encoding of the three formats, refusing by name. -/
def decode (cfg : Config) : Encoding → Except DecodeError Instr
  | .cmd10 w => .ok (decodeCommand w)
  | .key14 k => decodeKey cfg k
  | .txn bytes => decodeFrame cfg bytes

/-- The encoder, from the same tables (R60, R66, R69). A payload above 65535 bytes has no frame, so its transaction has
no bits in the table (R141). -/
def encode (cfg : Config) : Instr → Option Encoding
  | .push b => some (.cmd10 (cmdWord 0b00 b))
  | .flush data => some (.cmd10 (cmdWord 0b01 data))
  | .reserved w => some (.cmd10 w)
  | .pushSeekSync1Sync => some (.key14 (keyOf 0 (cmdWord 0 cfg.sync1)))
  | .pushSeekSync1Other b => some (.key14 (keyOf 0 (cmdWord 0 b)))
  | .pushSeekSync2Sync => some (.key14 (keyOf 1 (cmdWord 0 cfg.sync2)))
  | .pushSeekSync2Other b => some (.key14 (keyOf 1 (cmdWord 0 b)))
  | .pushReadClass b => some (.key14 (keyOf 2 (cmdWord 0 b)))
  | .pushReadId b => some (.key14 (keyOf 3 (cmdWord 0 b)))
  | .pushReadLenLow b => some (.key14 (keyOf 4 (cmdWord 0 b)))
  | .pushReadLenHigh b => some (.key14 (keyOf 5 (cmdWord 0 b)))
  | .pushReadPayload b => some (.key14 (keyOf 6 (cmdWord 0 b)))
  | .pushReadChecksumA b => some (.key14 (keyOf 7 (cmdWord 0 b)))
  | .pushReadChecksumB b => some (.key14 (keyOf 8 (cmdWord 0 b)))
  | .txFrame c i p => if p.length ≤ 65535 then some (.txn (frame cfg c i p)) else none

/-! ## The registry ROM word -/

/-- A ROM word as an entry (R71), refused by name when it is not a legal one. -/
def decodeRomWord (w : RomWord) : Except ConfigError RegEntry :=
  let eCls : Byte := w.extractLsb' 48 8
  let eId : Byte := w.extractLsb' 40 8
  let eA : U16 := w.extractLsb' 16 16
  let eW : U16 := w.extractLsb' 0 16
  if w.extractLsb' 32 7 != 0 then .error .reservedBits
  else if w.getLsbD 39 then
    if eW == 0 then .error .zeroWidth else .ok { eCls := eCls, eId := eId, eRule := .trailing eA eW }
  else
    if eW != 0 then .error .fixedWithWidth else .ok { eCls := eCls, eId := eId, eRule := .fixed eA }

/-- The ROM word of an entry (R71). -/
def encodeRomWord (e : RegEntry) : RomWord :=
  match e.eRule with
  | .fixed L => e.eCls ++ e.eId ++ 0#1 ++ 0#7 ++ L ++ 0#16
  | .trailing P W => e.eCls ++ e.eId ++ 1#1 ++ 0#7 ++ P ++ W

/-- The entries of a ROM image in order, or the first refusal. -/
def decodeRomImage : List RomWord → Except ConfigError (List RegEntry)
  | [] => .ok []
  | w :: ws =>
    match decodeRomWord w, decodeRomImage ws with
    | .ok e, .ok es => .ok (e :: es)
    | .error x, _ => .error x
    | .ok _, .error x => .error x

/-- Entries as a registry, refused by name when R6 (b) or (c) is broken. -/
def registryOfEntries (es : List RegEntry) : Except ConfigError Registry :=
  if hw : ∀ e ∈ es, e.eRule.legal = true then
    if hu : (es.map RegEntry.key).Nodup then .ok { entries := es, unique := hu, widths := hw }
    else .error .duplicateKey
  else .error .zeroWidth

/-- A ROM image as a registry (R6, R71). -/
def loadRegistry (image : List RomWord) : Except ConfigError Registry :=
  match decodeRomImage image with
  | .ok es => registryOfEntries es
  | .error x => .error x

/-- Building the block from raw parameters: a configuration that breaks R6 is refused by name. -/
def buildConfig (raw : RawConfig) : Except ConfigError Config :=
  if h : raw.pCap < 65536 then
    match loadRegistry raw.romImage with
    | .ok r =>
      .ok { sync1 := raw.sync1, sync2 := raw.sync2, rescanOnReject := raw.rescanOnReject, pCap := ⟨raw.pCap, h⟩, registry := r }
    | .error x => .error x
  else .error .capacityTooLarge

/-- The configuration of this block: sync bytes 0xB5 and 0x62 (R5, D1), and the open parameters. An image that R6 or R71
refuses builds no block; the term then stands for the block without entries (log entry 2). -/
def block : Config where
  sync1 := 0xB5
  sync2 := 0x62
  rescanOnReject := Config.openRescan
  pCap := Config.openCapacity
  registry := match loadRegistry Config.openRomImage with
    | .ok r => r
    | .error _ => Registry.empty

/-! ## Words numbered as the opcode table numbers them -/

/-- Byte `k` of a number, byte 0 least significant. -/
def byteOfNat (w k : Nat) : Byte := BitVec.ofNat 8 (w >>> (8 * k))

/-- The first `n` bytes of a number. -/
def bytesOfNat (w n : Nat) : List Byte := (List.range n).map (byteOfNat w)

/-- The frame that begins at byte 0 of a number: its length bytes say how long it is, and bytes above the number are 0. -/
def frameBytesOfNat (w : Nat) : List Byte := bytesOfNat w ((u16OfBytes (byteOfNat w 4) (byteOfNat w 5)).toNat + 8)

/-- The encoding a table word stands for. Up to 10 bits are a command word; up to two bytes whose bits 15:14 are 0 are
a dispatch key (a command word in two bytes is the key of `SeekSync1`, log entry 12); anything else is a frame. -/
def tableEncoding (nbits w : Nat) : Encoding :=
  if nbits ≤ 10 then .cmd10 (BitVec.ofNat 10 w)
  else if nbits ≤ 16 && w < 16384 then .key14 (BitVec.ofNat 14 w)
  else .txn (frameBytesOfNat w)

/-- What the decoder reads from a word of the opcode table. -/
def decodeTableWord (nbits w : Nat) : Option Instr := (decode block (tableEncoding nbits w)).toOption

end Sys2Proof
end

