-- ==== Sys2Proof/Machine/State.lean ====
section
/-! DEFINITION. The state of the block as plain data: RX's registers and payload buffer (10_state.md R20 to R25), the
ports of a step (30_encoding.md R67, R70; 60_exceptions.md R164), and why a step can stop. -/

namespace Sys2Proof.Machine

/-- The events of an RX step (30_encoding.md R68). Code 7 is reserved and cannot be formed. -/
inductive EventKind where
  /-- `NONE`: the step completed no frame and raised nothing. -/
  | quiet
  /-- `DELIVER`. -/
  | deliver
  /-- `UNRECOGNIZED`. -/
  | unrecognized
  /-- `REJECT_CHECKSUM`. -/
  | rejectChecksum
  /-- `REJECT_OVERSIZE`. -/
  | rejectOversize
  /-- `LENGTH_MISMATCH`. -/
  | lengthMismatch
  /-- `ILLEGAL_COMMAND`. -/
  | illegalCommand
  deriving DecidableEq, Repr

/-- The event record of an RX step (R67). `payload` is the payload view, taken as a value copy at the step of the event
(20_memory.md R47); none where the event offers none. -/
structure Event where
  kind : EventKind
  evDef : U16
  evCls : Byte
  evId : Byte
  evLen : U16
  evCount : U16
  payload : Option (List Byte)
  deriving DecidableEq, Repr

/-- The result of a transmit transaction (R70). -/
inductive TxResult where
  /-- `TX_OK(bytes)`. -/
  | ok (bytes : List Byte)
  /-- `TX_TOO_LONG`, with no bytes. -/
  | tooLong
  deriving DecidableEq, Repr

/-- What the host can do to the block next (R164). Pausing is having no move (41_rx_parser.md R94). -/
inductive HostMove where
  /-- A word on the RX command port. -/
  | rx (w : CmdWord)
  /-- A transaction on the TX port. -/
  | tx (c i : Byte) (p : List Byte)
  /-- The reset input, with the RX command presented in the same step, if any, which is discarded (70_reset_and_hazards.md R170).
  DESIGN CHOICE (log entry 23): the spec does not say whether a `TX_FRAME` presented in the same step as `rst` is discarded
  or completes, so this move carries none. A host whose transaction is discarded makes no `tx` move, one whose transaction
  completes makes it before or after: both are lists of moves. -/
  | rst (presented : Option CmdWord)
  /-- The consumer reads one byte of the payload buffer (20_memory.md R40), at any index. -/
  | bufRead (i : Nat)
  deriving DecidableEq, Repr

/-- Why the machine stops. -/
inductive Fault where
  /-- Raised by `bufWrite` alone: an index outside 0..P_CAP-1, which R40 says does not exist. Safe: the model
  stops where the spec gives no such address, and no reachable command does so (R46). -/
  | bufferIndexOutOfRange
  deriving DecidableEq, Repr

/-- Why the machine gives no meaning. -/
inductive Refusal where
  /-- Raised by `exec` for an instruction without a meaning yet; no arm raises it now. Safe. -/
  | notModelled (mnemonic : String)
  /-- Raised by `step` when the bits it fetched stand for no instruction. Safe: the nine-valued state register cannot form
  such a key (30_encoding.md R69). -/
  | undecodable (e : DecodeError)
  deriving DecidableEq, Repr

/-- The state of one instance. -/
structure State where
  /-- The state register (10_state.md R20, R21). -/
  st : RxState
  /-- The frame's class byte (R22). -/
  cls : Byte
  /-- The frame's message ID byte (R22). -/
  id : Byte
  /-- The declared payload length (R22). -/
  len : U16
  /-- The number of payload bytes already stored (R22). -/
  cnt : U16
  /-- Checksum accumulator A (R22). -/
  ckA : Byte
  /-- Checksum accumulator B (R22). -/
  ckB : Byte
  /-- The received first checksum byte (R22). -/
  rxCkA : Byte
  /-- The payload buffer (R25): the bytes written since power-on, by rising index. -/
  buf : List Host.Cell
  /-- The host's moves still to come, next first. -/
  input : List HostMove
  /-- The event record of the latest RX step; none after reset. -/
  rxEvent : Option Event
  /-- The result of the latest transmit transaction. -/
  txResult : Option TxResult
  /-- The byte stream out: all bytes of `TX_OK` results, in order (45_tx_framer.md R144). -/
  txStream : List Byte
  /-- The byte the consumer read last. -/
  readData : Option Byte
  /-- The number of free values used by consumer reads; the model's own field. -/
  freeCount : Nat
  deriving DecidableEq, Repr

/-- The block after `rst` at power-on (10_state.md R31): every register at the value the spec states, the buffer with
nothing written, no host move yet and no output yet. -/
def State.reset : State where
  st := .seekSync1
  cls := 0x00
  id := 0x00
  len := 0x0000
  cnt := 0x0000
  ckA := 0x00
  ckB := 0x00
  rxCkA := 0x00
  buf := []
  input := []
  rxEvent := none
  txResult := none
  txStream := []
  readData := none
  freeCount := 0

end Sys2Proof.Machine
end

