-- ==== Sys2Proof/Machine/Operands.lean ====
section
/-! DEFINITION. Operand forms: how an operand byte enters a register, and the records a step puts on a port. -/

namespace Sys2Proof.Machine

/-- `len <- zext_16(b)` (41_rx_parser.md R86). -/
def lenOfLow (b : Byte) : U16 := b.setWidth 16

/-- `len <- {b, len[7:0]}` (R87). -/
def lenWithHigh (b : Byte) (len : U16) : U16 := u16OfBytes (lowByte len) b

/-- An event that uses no field (30_encoding.md R67: unused fields are 0). -/
def Event.bare (k : EventKind) : Event :=
  { kind := k, evDef := 0, evCls := 0, evId := 0, evLen := 0, evCount := 0, payload := none }

/-- `NONE` (R68). -/
def Event.silent : Event := .bare .quiet

/-- The 3-bit code of an event (R68). -/
def EventKind.code : EventKind → BitVec 3
  | .quiet => 0
  | .deliver => 1
  | .unrecognized => 2
  | .rejectChecksum => 3
  | .rejectOversize => 4
  | .lengthMismatch => 5
  | .illegalCommand => 6

/-- The code of a transmit result (R70). -/
def TxResult.code : TxResult → Nat
  | .ok _ => 0
  | .tooLong => 1

/-- The bytes a transmit result hands to the byte sink (R70, 45_tx_framer.md R141: none when too long). -/
def TxResult.bytes : TxResult → List Byte
  | .ok bytes => bytes
  | .tooLong => []

end Sys2Proof.Machine
end

