-- ==== Sys2Proof/Machine/Flags.lean ====
section
/-! DEFINITION. Conditions and running sums. The block has no status flags (10_state.md R23): these are the conditions its
rules test within a step, and the checksum accumulators. -/

namespace Sys2Proof.Machine

/-- `Acc(b)` (43_checksum.md R112): `ck_b` takes the new `ck_a`. -/
def acc (b : Byte) (s : State) : State := { s with ckA := s.ckA + b, ckB := s.ckB + (s.ckA + b) }

/-- The trailer equals the accumulators, both bytes in order (41_rx_parser.md R90, 43_checksum.md R115). -/
def checksumMatches (b : Byte) (s : State) : Bool := s.rxCkA == s.ckA && b == s.ckB

/-- The capacity bound, strict (R87, D6). -/
def oversize (cfg : Config) (len : U16) : Bool := cfg.pCap.val < len.toNat

/-- A frame is in progress (10_state.md R23). -/
def frameInProgress (s : State) : Bool := s.st != .seekSync1 && s.st != .seekSync2

/-- The length rule of an entry (44_demux_length.md R124, R125), on unbounded naturals. -/
def lengthValid (rule : LengthRule) (n : U16) : Bool :=
  match rule with
  | .fixed L => n == L
  | .trailing P W => P.toNat ≤ n.toNat && (n.toNat - P.toNat) % W.toNat == 0

/-- `ev_count` of a length-valid frame (R124, R125). -/
def groupCount (rule : LengthRule) (n : U16) : U16 :=
  match rule with
  | .fixed _ => 0
  | .trailing P W => BitVec.ofNat 16 ((n.toNat - P.toNat) / W.toNat)

end Sys2Proof.Machine
end

