-- ==== Sys2Proof/Machine/Ops.lean ====
section
/-! DEFINITION. The named operations over the payload buffer, the registers and the ports, raising an error among them
(00_scope.md R9, 60_exceptions.md R156). -/

namespace Sys2Proof.Machine

/-! ## The payload buffer -/

/-- The byte at an index; none where nothing has been written since power-on. -/
def Memory.read (m : List Host.Cell) (a : Nat) : Option Byte := m.lookup a

/-- Write a byte at an index, keeping the cells by rising index and one per index. -/
def Memory.write : List Host.Cell → Nat → Byte → List Host.Cell
  | [], a, v => [(a, v)]
  | (b, w) :: m, a, v =>
    if a < b then (a, v) :: (b, w) :: m
    else if a = b then (a, v) :: m
    else (b, w) :: Memory.write m a v

/-- The one canonical form: indices strictly rise. An index nothing has written has no value, so no entry can equal it. -/
abbrev Memory.wf (m : List Host.Cell) : Prop := m.Pairwise (fun x y => x.1 < y.1)

/-- The byte a buffer index holds: the byte written last, or the free value of power-on (10_state.md R31). -/
def bufByte (m : List Host.Cell) (i : Nat) : Byte := (Memory.read m i).getD (Config.powerOnByte i)

/-- `buf[0..n-1]` as a value copy (20_memory.md R47). -/
def payloadView (m : List Host.Cell) (n : U16) : List Byte := (List.range n.toNat).map (bufByte m)

/-- Carry on from a next state; a stop stays the stop it is. -/
def andThen (o : Host.Outcome State Fault Refusal) (k : State → Host.Outcome State Fault Refusal) :
    Host.Outcome State Fault Refusal :=
  match o with
  | .next s => k s
  | .fault f => .fault f
  | .refused r => .refused r

/-- `BufWrite(i, v)` (20_memory.md R40): indices from P_CAP on do not exist, and no run writes there (R46; log entry 10). -/
def bufWrite (cfg : Config) (i : Nat) (v : Byte) (s : State) : Host.Outcome State Fault Refusal :=
  if i < cfg.pCap.val then .next { s with buf := Memory.write s.buf i v } else .fault .bufferIndexOutOfRange

/-! ## Registers and events -/

/-- `st <- S` (00_scope.md R9). -/
def setSt (st : RxState) (s : State) : State := { s with st := st }

/-- `emit E`: the event record of this step (R9, 30_encoding.md R67). -/
def emit (e : Event) (s : State) : State := { s with rxEvent := some e }

/-- `Idle()` (41_rx_parser.md R81). The buffer is not written. -/
def idle (s : State) : State :=
  { s with st := .seekSync1, cls := 0x00, id := 0x00, len := 0x0000, cnt := 0x0000, ckA := 0x00, ckB := 0x00, rxCkA := 0x00 }

/-- `SyncCheck(b)` (R82). -/
def syncCheck (cfg : Config) (b : Byte) (s : State) : State :=
  setSt (if b == cfg.sync1 then .seekSync2 else .seekSync1) s

/-- `RejectRecover(b)` (R91). -/
def rejectRecover (cfg : Config) (b : Byte) (s : State) : State :=
  if cfg.rescanOnReject then syncCheck cfg b (idle s) else idle s

/-- `raise X()` for the two rejects: the event with every field 0, then the recovery (R9, R156; D17, D33). The return is
part of it: the step that raises leaves RX ready for the next command (R157). -/
def raiseReject (cfg : Config) (k : EventKind) (b : Byte) (s : State) : State := rejectRecover cfg b (emit (.bare k) s)

/-! ## The demultiplexer -/

/-- The loop of `RegLookup`, from index `k` on (44_demux_length.md R122). -/
def regLookupFrom (c i : Byte) : List RegEntry → Nat → Option (Nat × RegEntry)
  | [], _ => none
  | e :: es, k => if e.eCls == c && e.eId == i then some (k, e) else regLookupFrom c i es (k + 1)

/-- `RegLookup(c, i)` with the entry found; none is `ABSENT` (R122). -/
def regLookup (r : Registry) (c i : Byte) : Option (Nat × RegEntry) := regLookupFrom c i r.entries 0

/-- `Demux(c, i, n)` for a payload (R128; the events are R123, R126, R127). -/
def demux (r : Registry) (c i : Byte) (n : U16) (payload : List Byte) : Event :=
  match regLookup r c i with
  | none =>
    { kind := .unrecognized, evDef := 0, evCls := c, evId := i, evLen := n, evCount := 0, payload := some payload }
  | some (k, e) =>
    if lengthValid e.eRule n then
      { kind := .deliver, evDef := BitVec.ofNat 16 k, evCls := c, evId := i, evLen := n, evCount := groupCount e.eRule n,
        payload := some payload }
    else
      { kind := .lengthMismatch, evDef := BitVec.ofNat 16 k, evCls := c, evId := i, evLen := n, evCount := 0, payload := none }

/-! ## The transmit framer -/

/-- The result of `TX_FRAME(c, i, p)` (45_tx_framer.md R140, R141). -/
def txOutcome (cfg : Config) (c i : Byte) (p : List Byte) : TxResult :=
  if 65535 < p.length then .tooLong else .ok (frame cfg c i p)

/-- Hand a result to the requester, its bytes to the byte stream out after those of earlier results (R144). -/
def txReport (r : TxResult) (s : State) : State := { s with txResult := some r, txStream := s.txStream ++ r.bytes }

/-! ## The host's other moves -/

/-- The reset input (70_reset_and_hazards.md R170): `Idle()`, no event, the buffer and TX untouched. -/
def applyReset (s : State) : State := { idle s with rxEvent := none }

/-- How many bytes the read window offers: those of the latest event, if it has a payload view (20_memory.md R47). -/
def windowLength (s : State) : Nat :=
  match s.rxEvent with
  | some e => if e.payload.isSome then e.evLen.toNat else 0
  | none => 0

/-- `BufRead(i)` by the consumer (R40, R47): the buffer's byte inside the window; at any other index, the indices from P_CAP on
among them, a fresh free value (93_implementation_defined.md section 1; log entry 8). It never stops the machine. -/
def consumerRead (i : Nat) (s : State) : State :=
  { s with
    readData := some (if i < windowLength s then bufByte s.buf i else Config.freeByte s.freeCount),
    freeCount := s.freeCount + 1 }

end Sys2Proof.Machine
end

