-- ==== Sys2Proof/Machine/RxParser.lean ====
section
/-! DEFINITION. `PUSH b` (41_rx_parser.md): one rule per state, for any configuration, the dispatch R80 over them, and the
meanings of the twelve `PUSH` rows at the configuration of this block. -/

namespace Sys2Proof.Machine

/-- `PUSH b` in `SeekSync1` (R82). -/
def pushSeekSync1 (cfg : Config) (b : Byte) (s : State) : Host.Outcome State Fault Refusal :=
  .next (emit .silent (syncCheck cfg b s))

/-- `PUSH b` in `SeekSync2` (R83). -/
def pushSeekSync2 (cfg : Config) (b : Byte) (s : State) : Host.Outcome State Fault Refusal :=
  .next (emit .silent
    (if b == cfg.sync2 then { s with st := .readClass, ckA := 0x00, ckB := 0x00, cnt := 0x0000 } else syncCheck cfg b s))

/-- `PUSH b` in `ReadClass` (R84). -/
def pushReadClass (b : Byte) (s : State) : Host.Outcome State Fault Refusal :=
  .next (emit .silent (setSt .readId (acc b { s with cls := b })))

/-- `PUSH b` in `ReadId` (R85). -/
def pushReadId (b : Byte) (s : State) : Host.Outcome State Fault Refusal :=
  .next (emit .silent (setSt .readLenLow (acc b { s with id := b })))

/-- `PUSH b` in `ReadLenLow` (R86). -/
def pushReadLenLow (b : Byte) (s : State) : Host.Outcome State Fault Refusal :=
  .next (emit .silent (setSt .readLenHigh (acc b { s with len := lenOfLow b })))

/-- The choice at the end of R87, made on the assembled length. -/
def lengthStage (cfg : Config) (b : Byte) (s : State) : State :=
  if oversize cfg s.len then raiseReject cfg .rejectOversize b s
  else if s.len == 0 then emit .silent (setSt .readChecksumA s)
  else emit .silent (setSt .readPayload s)

/-- `PUSH b` in `ReadLenHigh` (R87). -/
def pushReadLenHigh (cfg : Config) (b : Byte) (s : State) : Host.Outcome State Fault Refusal :=
  .next (lengthStage cfg b (acc b { s with len := lenWithHigh b s.len }))

/-- What follows the `BufWrite` of R88: the count, the checksum, and the exit after `len` bytes. -/
def payloadStage (b : Byte) (s : State) : State :=
  let s := acc b { s with cnt := s.cnt + 1 }
  emit .silent (if s.cnt == s.len then setSt .readChecksumA s else s)

/-- `PUSH b` in `ReadPayload` (R88): the write index is the count before it is incremented. -/
def pushReadPayload (cfg : Config) (b : Byte) (s : State) : Host.Outcome State Fault Refusal :=
  andThen (bufWrite cfg s.cnt.toNat b s) (fun s => .next (payloadStage b s))

/-- `PUSH b` in `ReadChecksumA` (R89). -/
def pushReadChecksumA (b : Byte) (s : State) : Host.Outcome State Fault Refusal :=
  .next (emit .silent (setSt .readChecksumB { s with rxCkA := b }))

/-- The event of an accepted frame: `Demux` reads the registers before `Idle` clears them (R90, R128). -/
def acceptEvent (cfg : Config) (s : State) : Event := demux cfg.registry s.cls s.id s.len (payloadView s.buf s.len)

/-- `PUSH b` in `ReadChecksumB` (R90). -/
def pushReadChecksumB (cfg : Config) (b : Byte) (s : State) : Host.Outcome State Fault Refusal :=
  .next (if checksumMatches b s then idle (emit (acceptEvent cfg s) s) else raiseReject cfg .rejectChecksum b s)

/-- `PUSH b`: dispatch on the state register (R80). -/
def push (cfg : Config) (b : Byte) (s : State) : Host.Outcome State Fault Refusal :=
  match s.st with
  | .seekSync1 => pushSeekSync1 cfg b s
  | .seekSync2 => pushSeekSync2 cfg b s
  | .readClass => pushReadClass b s
  | .readId => pushReadId b s
  | .readLenLow => pushReadLenLow b s
  | .readLenHigh => pushReadLenHigh cfg b s
  | .readPayload => pushReadPayload cfg b s
  | .readChecksumA => pushReadChecksumA b s
  | .readChecksumB => pushReadChecksumB cfg b s

/-- `PUSH` (R80). -/
def execPush (b : Byte) (s : State) : Host.Outcome State Fault Refusal := push block b s

/-- `PUSH.SeekSync1.sync` (R69 row 1): R82 with the byte the row fixes. -/
def execPushSeekSync1Sync (s : State) : Host.Outcome State Fault Refusal := pushSeekSync1 block block.sync1 s

/-- `PUSH.SeekSync1.other` (R69 row 2). -/
def execPushSeekSync1Other (b : Byte) (s : State) : Host.Outcome State Fault Refusal := pushSeekSync1 block b s

/-- `PUSH.SeekSync2.sync` (R69 row 3): R83 with the byte the row fixes. -/
def execPushSeekSync2Sync (s : State) : Host.Outcome State Fault Refusal := pushSeekSync2 block block.sync2 s

/-- `PUSH.SeekSync2.other` (R69 row 4). -/
def execPushSeekSync2Other (b : Byte) (s : State) : Host.Outcome State Fault Refusal := pushSeekSync2 block b s

/-- `PUSH.ReadClass` (R69 row 5). -/
def execPushReadClass (b : Byte) (s : State) : Host.Outcome State Fault Refusal := pushReadClass b s

/-- `PUSH.ReadId` (R69 row 6). -/
def execPushReadId (b : Byte) (s : State) : Host.Outcome State Fault Refusal := pushReadId b s

/-- `PUSH.ReadLenLow` (R69 row 7). -/
def execPushReadLenLow (b : Byte) (s : State) : Host.Outcome State Fault Refusal := pushReadLenLow b s

/-- `PUSH.ReadLenHigh` (R69 row 8). -/
def execPushReadLenHigh (b : Byte) (s : State) : Host.Outcome State Fault Refusal := pushReadLenHigh block b s

/-- `PUSH.ReadPayload` (R69 row 9). -/
def execPushReadPayload (b : Byte) (s : State) : Host.Outcome State Fault Refusal := pushReadPayload block b s

/-- `PUSH.ReadChecksumA` (R69 row 10). -/
def execPushReadChecksumA (b : Byte) (s : State) : Host.Outcome State Fault Refusal := pushReadChecksumA b s

/-- `PUSH.ReadChecksumB` (R69 row 11). -/
def execPushReadChecksumB (b : Byte) (s : State) : Host.Outcome State Fault Refusal := pushReadChecksumB block b s

end Sys2Proof.Machine
end

