-- ==== Sys2Proof/Machine/RxControl.lean ====
section
/-! DEFINITION. The RX control commands (42_rx_control.md): `FLUSH`, the reserved words, one command word at any
configuration, and chunks. -/

namespace Sys2Proof.Machine

/-- `FLUSH` (R100): legal in every state, the data bits ignored (D32). -/
def flush (s : State) : Host.Outcome State Fault Refusal := .next (emit .silent (idle s))

/-- A reserved word (R101): reported, and without any other effect. -/
def illegalCommand (s : State) : Host.Outcome State Fault Refusal := .next (emit (.bare .illegalCommand) s)

/-- `FLUSH` (R100, R69 row 12). -/
def execFlush (_data : Byte) (s : State) : Host.Outcome State Fault Refusal := flush s

/-- `RESERVED` (R101, R69 row 13). -/
def execReserved (_w : CmdWord) (s : State) : Host.Outcome State Fault Refusal := illegalCommand s

/-- A chunk is its bytes as successive `PUSH` commands (R102, D36). -/
def chunk (bytes : List Byte) : List HostMove := bytes.map (fun b => .rx (cmdWord 0b00 b))

/-- Push the bytes of a chunk one after another, with the event of each step (R102); none if a step stops. -/
def feed (cfg : Config) : List Byte → State → Option (State × List (Option Event))
  | [], s => some (s, [])
  | b :: bs, s =>
    match push cfg b s with
    | .next t => (feed cfg bs t).map (fun r => (r.1, t.rxEvent :: r.2))
    | .fault _ => none
    | .refused _ => none

end Sys2Proof.Machine
end

