-- ==== Sys2Proof/Machine/Tx.lean ====
section
/-! DEFINITION. The transmit framer (45_tx_framer.md). -/

namespace Sys2Proof.Machine

/-- `TX_FRAME(c, i, p)` at any configuration (R140): the result depends on the operands alone (10_state.md R27). -/
def txFrame (cfg : Config) (c i : Byte) (p : List Byte) (s : State) : Host.Outcome State Fault Refusal :=
  .next (txReport (txOutcome cfg c i p) s)

/-- `TX_FRAME` (R140, R141). -/
def execTxFrame (c i : Byte) (p : List Byte) (s : State) : Host.Outcome State Fault Refusal := txFrame block c i p s

end Sys2Proof.Machine
end

