-- ==== Sys2Proof/Machine/Dispatch.lean ====
section
/-! DEFINITION. The dispatch: one arm per instruction. -/

namespace Sys2Proof.Machine

/-- The meaning of an instruction. -/
def exec (i : Instr) (s : State) : Host.Outcome State Fault Refusal :=
  match i with
  | .push b => Sys2Proof.Machine.execPush b s
  | .flush data => Sys2Proof.Machine.execFlush data s
  | .reserved w => Sys2Proof.Machine.execReserved w s
  | .pushSeekSync1Sync => Sys2Proof.Machine.execPushSeekSync1Sync s
  | .pushSeekSync1Other b => Sys2Proof.Machine.execPushSeekSync1Other b s
  | .pushSeekSync2Sync => Sys2Proof.Machine.execPushSeekSync2Sync s
  | .pushSeekSync2Other b => Sys2Proof.Machine.execPushSeekSync2Other b s
  | .pushReadClass b => Sys2Proof.Machine.execPushReadClass b s
  | .pushReadId b => Sys2Proof.Machine.execPushReadId b s
  | .pushReadLenLow b => Sys2Proof.Machine.execPushReadLenLow b s
  | .pushReadLenHigh b => Sys2Proof.Machine.execPushReadLenHigh b s
  | .pushReadPayload b => Sys2Proof.Machine.execPushReadPayload b s
  | .pushReadChecksumA b => Sys2Proof.Machine.execPushReadChecksumA b s
  | .pushReadChecksumB b => Sys2Proof.Machine.execPushReadChecksumB b s
  | .txFrame c m p => Sys2Proof.Machine.execTxFrame c m p s

end Sys2Proof.Machine
end

