-- ==== Sys2Proof/Machine/Fetch.lean ====
section
/-! DEFINITION. Where a step takes what it does from: the host's next move. An RX command is dispatched on the key formed
with the state register (30_encoding.md R69). -/

namespace Sys2Proof.Machine

/-- What the next move asks of the block, with the state after the move is taken. -/
inductive Fetched where
  /-- No move: the host pauses (41_rx_parser.md R94). -/
  | nothing
  /-- An instruction. -/
  | run (i : Instr) (s : State)
  /-- The reset input. -/
  | reset (s : State)
  /-- A consumer read. -/
  | read (i : Nat) (s : State)
  /-- Bits that stand for no instruction. -/
  | bad (e : DecodeError)
  deriving DecidableEq, Repr

/-- The dispatch key of a command word in a state (30_encoding.md R69). -/
def dispatchKey (w : CmdWord) (s : State) : Key := keyOf s.st.code w

/-- Take the next move. A command presented with `rst` is discarded (42_rx_control.md R103). -/
def fetch (s : State) : Fetched :=
  match s.input with
  | [] => .nothing
  | .rx w :: rest =>
    match decode block (.key14 (dispatchKey w s)) with
    | .ok i => .run i { s with input := rest }
    | .error e => .bad e
  | .tx c i p :: rest => .run (.txFrame c i p) { s with input := rest }
  | .rst _ :: rest => .reset { s with input := rest }
  | .bufRead i :: rest => .read i { s with input := rest }

/-- Put a move before all others. -/
def present (m : HostMove) (s : State) : State := { s with input := m :: s.input }

/-- Present what an encoding stands for as the host's next move. A key also says which state the register is in, so a
legal state code is written there. -/
def presentEncoding (e : Encoding) (s : State) : State :=
  match e with
  | .cmd10 w => present (.rx w) s
  | .key14 k => present (.rx (keyCommand k)) (setSt ((RxState.ofCode (keyState k)).getD s.st) s)
  | .txn bytes =>
    match decodeFrame block bytes with
    | .ok (.txFrame c i p) => present (.tx c i p) s
    | _ => s

end Sys2Proof.Machine
end

