-- ==== Sys2Proof/Machine/Step.lean ====
section
/-! DEFINITION. One step: the host's next move. -/

namespace Sys2Proof.Machine

/-- One step of the block. With no move nothing happens (41_rx_parser.md R94). -/
def step (s : State) : Host.Outcome State Fault Refusal :=
  match fetch s with
  | .nothing => .next s
  | .run i t => exec i t
  | .reset t => .next (applyReset t)
  | .read i t => .next (consumerRead i t)
  | .bad e => .refused (.undecodable e)

/-- The state with an opcode-table word as the host's next move. -/
def State.withFetchWord (s : State) (nbits w : Nat) : State := presentEncoding (tableEncoding nbits w) s

end Sys2Proof.Machine
end

