-- ==== Sys2Proof/Machine/Assembler.lean ====
section
/-! DEFINITION. The command-stream syntax (30_encoding.md R73) and the pseudo-instructions (R74): a line of text as a
command, and a command as moves of the host. -/

namespace Sys2Proof.Machine

/-- A line of a command stream (R73, R74). -/
inductive AsmLine where
  | push (b : Byte)
  | flush
  | cmd (w : CmdWord)
  | tx (c i : Byte) (p : List Byte)
  | pushs (bytes : List Byte)
  | sendframe (c i : Byte) (p : List Byte)
  | badframe (c i : Byte) (p : List Byte)
  deriving DecidableEq, Repr

/-- Why a line stands for no command. -/
inductive AsmError where
  /-- Characters that form no token. -/
  | badToken
  /-- Tokens that form no command of R73 or R74. -/
  | badLine
  /-- A number too large for its place. -/
  | outOfRange
  /-- `sendframe` or `badframe` with more than 65535 payload bytes (R74). -/
  | payloadTooLong
  deriving DecidableEq, Repr

/-- `FRAME` with its last byte replaced by `(last + 1) mod 256` (R74, `badframe`). -/
def bumpLast : List Byte → List Byte
  | [] => []
  | [b] => [b + 1]
  | b :: bs => b :: bumpLast bs

/-- The commands a line expands to (R73, R74). -/
def assemble (cfg : Config) : AsmLine → Except AsmError (List HostMove)
  | .push b => .ok [.rx (cmdWord 0b00 b)]
  | .flush => .ok [.rx 0x100]
  | .cmd w => .ok [.rx w]
  | .tx c i p => .ok [.tx c i p]
  | .pushs bytes => .ok (chunk bytes)
  | .sendframe c i p => if 65535 < p.length then .error .payloadTooLong else .ok (chunk (frame cfg c i p))
  | .badframe c i p => if 65535 < p.length then .error .payloadTooLong else .ok (chunk (bumpLast (frame cfg c i p)))

/-! ## Text -/

/-- The pieces of a line. -/
inductive Token where
  | word (cs : List Char)
  | comma
  | openList
  | closeList
  deriving DecidableEq, Repr

/-- The characters before a comment (R73: `;` starts one). -/
def stripComment : List Char → List Char
  | [] => []
  | c :: cs => if c = ';' then [] else c :: stripComment cs

/-- A word read so far, as a token. -/
def flushWord (w : List Char) (ts : List Token) : List Token := if w = [] then ts else .word w.reverse :: ts

/-- Cut a line into tokens; `w` is the word being read, in reverse. -/
def tokens : List Char → List Char → List Token
  | [], w => flushWord w []
  | c :: cs, w =>
    if c = ' ' ∨ c = '\t' then flushWord w (tokens cs [])
    else if c = ',' then flushWord w (.comma :: tokens cs [])
    else if c = '[' then flushWord w (.openList :: tokens cs [])
    else if c = ']' then flushWord w (.closeList :: tokens cs [])
    else tokens cs (c :: w)

/-- The value of a digit in a base up to 16. -/
def digitValue (base : Nat) (c : Char) : Option Nat :=
  let v :=
    if '0' ≤ c ∧ c ≤ '9' then c.toNat - '0'.toNat
    else if 'a' ≤ c ∧ c ≤ 'f' then c.toNat - 'a'.toNat + 10
    else if 'A' ≤ c ∧ c ≤ 'F' then c.toNat - 'A'.toNat + 10
    else base
  if v < base then some v else none

/-- Digits after the value `n` read so far. -/
def digits (base : Nat) : List Char → Nat → Option Nat
  | [], n => some n
  | c :: cs, n =>
    match digitValue base c with
    | some v => digits base cs (n * base + v)
    | none => none

/-- A number: hexadecimal `0xNN` or decimal (R73). -/
def number : List Char → Option Nat
  | '0' :: 'x' :: c :: cs => digits 16 (c :: cs) 0
  | c :: cs => digits 10 (c :: cs) 0
  | [] => none

/-- A number below a bound. -/
def numberBelow (bound : Nat) (cs : List Char) : Except AsmError Nat :=
  match number cs with
  | some n => if n < bound then .ok n else .error .outOfRange
  | none => .error .badToken

/-- A byte operand. -/
def byteOperand (cs : List Char) : Except AsmError Byte := (numberBelow 256 cs).map (BitVec.ofNat 8)

/-- The rest of a nonempty byte list, up to its end. -/
def byteListTail : List Token → Except AsmError (List Byte × List Token)
  | .comma :: .word w :: ts =>
    match byteOperand w, byteListTail ts with
    | .ok b, .ok (bs, rest) => .ok (b :: bs, rest)
    | .error e, _ => .error e
    | .ok _, .error e => .error e
  | ts => .ok ([], ts)

/-- `b0, b1, ..., bn`. -/
def byteList : List Token → Except AsmError (List Byte × List Token)
  | .word w :: ts =>
    match byteOperand w, byteListTail ts with
    | .ok b, .ok (bs, rest) => .ok (b :: bs, rest)
    | .error e, _ => .error e
    | .ok _, .error e => .error e
  | _ => .error .badLine

/-- `c, i, [p0, p1, ...]`, the list possibly empty. -/
def frameOperands (ts : List Token) : Except AsmError (Byte × Byte × List Byte) :=
  match ts with
  | .word c :: .comma :: .word i :: .comma :: .openList :: rest =>
    match byteOperand c, byteOperand i with
    | .ok c, .ok i =>
      match rest with
      | [.closeList] => .ok (c, i, [])
      | _ =>
        match byteList rest with
        | .ok (p, [.closeList]) => .ok (c, i, p)
        | .ok _ => .error .badLine
        | .error e => .error e
    | .error e, _ => .error e
    | .ok _, .error e => .error e
  | _ => .error .badLine

/-- The tokens of a line as a command; a line without tokens holds none. -/
def parseTokens (ts : List Token) : Except AsmError (Option AsmLine) :=
  match ts with
  | [] => .ok none
  | .word ['p', 'u', 's', 'h'] :: [.word w] => (byteOperand w).map (fun b => some (.push b))
  | [.word ['f', 'l', 'u', 's', 'h']] => .ok (some .flush)
  | .word ['.', 'c', 'm', 'd'] :: [.word w] => (numberBelow 1024 w).map (fun n => some (.cmd (BitVec.ofNat 10 n)))
  | .word ['t', 'x'] :: rest => (frameOperands rest).map (fun r => some (.tx r.1 r.2.1 r.2.2))
  | .word ['p', 'u', 's', 'h', 's'] :: rest =>
    match byteList rest with
    | .ok (bs, []) => .ok (some (.pushs bs))
    | .ok _ => .error .badLine
    | .error e => .error e
  | .word ['s', 'e', 'n', 'd', 'f', 'r', 'a', 'm', 'e'] :: rest =>
    (frameOperands rest).map (fun r => some (.sendframe r.1 r.2.1 r.2.2))
  | .word ['b', 'a', 'd', 'f', 'r', 'a', 'm', 'e'] :: rest =>
    (frameOperands rest).map (fun r => some (.badframe r.1 r.2.1 r.2.2))
  | _ => .error .badLine

/-- One line of text as a command (R73: one command per line). -/
def parseLine (line : List Char) : Except AsmError (Option AsmLine) := parseTokens (tokens (stripComment line) [])

end Sys2Proof.Machine
end

