-- ==== Sys2Proof/Safety.lean ====
section
/-! DEFINITION. What the statements speak of: the invariant of reachable states (10_state.md R30), the transition table of
`PUSH` (41_rx_parser.md R92), what an event record may hold (30_encoding.md R67), and where an instruction stores. -/

namespace Sys2Proof.Machine

/-- The covered bytes consumed so far in the current frame, read off the registers and the buffer (R30 (I5), R111). -/
def covered (s : State) : List Byte :=
  match s.st with
  | .seekSync1 | .seekSync2 | .readClass => []
  | .readId => [s.cls]
  | .readLenLow => [s.cls, s.id]
  | .readLenHigh => [s.cls, s.id, lowByte s.len]
  | .readPayload | .readChecksumA | .readChecksumB => frameHeader s.cls s.id s.len ++ payloadView s.buf s.cnt

/-- States in which the header is being read, the payload not begun. -/
def readsHeader (st : RxState) : Bool := st == .readClass || st == .readId || st == .readLenLow || st == .readLenHigh

/-- States in which the length has been accepted. -/
def lengthAccepted (st : RxState) : Bool := st == .readPayload || st == .readChecksumA || st == .readChecksumB

/-- The invariant of R30. (I1) is the type of `st`. The count in header states, the buffer's form and the read window are
what makes it inductive (log entry 21). -/
structure Inv (cfg : Config) (s : State) : Prop where
  /-- (I2) -/
  seeking : frameInProgress s = false →
    s.cls = 0 ∧ s.id = 0 ∧ s.len = 0 ∧ s.cnt = 0 ∧ s.ckA = 0 ∧ s.ckB = 0 ∧ s.rxCkA = 0
  /-- No payload byte is stored while the header is read. -/
  header : readsHeader s.st = true → s.cnt = 0
  /-- (I3) -/
  fits : lengthAccepted s.st = true → s.len.toNat ≤ cfg.pCap.val
  /-- (I4) in the payload state. -/
  counting : s.st = .readPayload → s.cnt.toNat < s.len.toNat
  /-- (I4) after it. -/
  counted : s.st = .readChecksumA ∨ s.st = .readChecksumB → s.cnt = s.len
  /-- (I5) -/
  sums : ck (covered s) = (s.ckA, s.ckB)
  /-- (I6): every payload byte counted stands in the buffer. -/
  stored : ∀ k, k < s.cnt.toNat → (Memory.read s.buf k).isSome = true
  /-- The buffer keeps its canonical form. -/
  bufForm : Memory.wf s.buf
  /-- The buffer holds bytes at indices 0..P_CAP-1 only (R25). -/
  bufBound : ∀ c ∈ s.buf, c.1 < cfg.pCap.val
  /-- A payload still on offer is what the buffer holds (20_memory.md R47). -/
  window : ∀ e p, s.rxEvent = some e → e.payload = some p →
    e.evLen.toNat ≤ cfg.pCap.val ∧ p = payloadView s.buf e.evLen

/-- Every register as `Idle()` leaves it, the state register apart (R81). -/
def registersCleared (s : State) : Prop :=
  s.cls = 0 ∧ s.id = 0 ∧ s.len = 0 ∧ s.cnt = 0 ∧ s.ckA = 0 ∧ s.ckB = 0 ∧ s.rxCkA = 0

/-- The state a reject leads to (R91, R92). -/
def rejectState (cfg : Config) (b : Byte) : RxState :=
  if cfg.rescanOnReject = true ∧ b = cfg.sync1 then .seekSync2 else .seekSync1

/-- The column 'next state' of R92. -/
def tableNext (cfg : Config) (s : State) (b : Byte) : RxState :=
  match s.st with
  | .seekSync1 => if b = cfg.sync1 then .seekSync2 else .seekSync1
  | .seekSync2 => if b = cfg.sync2 then .readClass else if b = cfg.sync1 then .seekSync2 else .seekSync1
  | .readClass => .readId
  | .readId => .readLenLow
  | .readLenLow => .readLenHigh
  | .readLenHigh =>
    if cfg.pCap.val < (u16OfBytes (lowByte s.len) b).toNat then rejectState cfg b
    else if u16OfBytes (lowByte s.len) b = 0 then .readChecksumA else .readPayload
  | .readPayload => if s.cnt + 1 = s.len then .readChecksumA else .readPayload
  | .readChecksumA => .readChecksumB
  | .readChecksumB => if s.rxCkA = s.ckA ∧ b = s.ckB then .seekSync1 else rejectState cfg b

/-- The column 'event' of R92: the kinds a step may emit. -/
def tableEvents (cfg : Config) (s : State) (b : Byte) : List EventKind :=
  match s.st with
  | .readLenHigh => if cfg.pCap.val < (u16OfBytes (lowByte s.len) b).toNat then [.rejectOversize] else [.quiet]
  | .readChecksumB =>
    if s.rxCkA = s.ckA ∧ b = s.ckB then [.deliver, .unrecognized, .lengthMismatch] else [.rejectChecksum]
  | _ => [.quiet]

/-- The column 'registers written' of R92: the registers a row does not name keep their values, and a row that runs
`Idle` clears all. -/
def tableRegisters (cfg : Config) (s : State) (b : Byte) (t : State) : Prop :=
  match s.st with
  | .seekSync1 =>
    t.cls = s.cls ∧ t.id = s.id ∧ t.len = s.len ∧ t.cnt = s.cnt ∧ t.ckA = s.ckA ∧ t.ckB = s.ckB ∧ t.rxCkA = s.rxCkA
  | .seekSync2 =>
    t.cls = s.cls ∧ t.id = s.id ∧ t.len = s.len ∧ t.rxCkA = s.rxCkA ∧
      if b = cfg.sync2 then t.cnt = 0 ∧ t.ckA = 0 ∧ t.ckB = 0 else t.cnt = s.cnt ∧ t.ckA = s.ckA ∧ t.ckB = s.ckB
  | .readClass => t.id = s.id ∧ t.len = s.len ∧ t.cnt = s.cnt ∧ t.rxCkA = s.rxCkA
  | .readId => t.cls = s.cls ∧ t.len = s.len ∧ t.cnt = s.cnt ∧ t.rxCkA = s.rxCkA
  | .readLenLow => t.cls = s.cls ∧ t.id = s.id ∧ t.cnt = s.cnt ∧ t.rxCkA = s.rxCkA
  | .readLenHigh =>
    if cfg.pCap.val < (u16OfBytes (lowByte s.len) b).toNat then registersCleared t
    else t.cls = s.cls ∧ t.id = s.id ∧ t.cnt = s.cnt ∧ t.rxCkA = s.rxCkA
  | .readPayload => t.cls = s.cls ∧ t.id = s.id ∧ t.len = s.len ∧ t.rxCkA = s.rxCkA
  | .readChecksumA => t.cls = s.cls ∧ t.id = s.id ∧ t.len = s.len ∧ t.cnt = s.cnt ∧ t.ckA = s.ckA ∧ t.ckB = s.ckB
  | .readChecksumB => registersCleared t

/-- The fields an event uses, the others 0 (30_encoding.md R67), and a payload view of `ev_len` bytes. -/
def Event.wellFormed (e : Event) : Prop :=
  match e.kind with
  | .deliver => ∃ p, e.payload = some p ∧ p.length = e.evLen.toNat
  | .unrecognized => e.evDef = 0 ∧ e.evCount = 0 ∧ ∃ p, e.payload = some p ∧ p.length = e.evLen.toNat
  | .lengthMismatch => e.evCount = 0 ∧ e.payload = none
  | .quiet | .rejectChecksum | .rejectOversize | .illegalCommand => e = .bare e.kind

/-- Whether an instruction is RX's (00_scope.md R7). -/
def isRx : Instr → Bool
  | .txFrame _ _ _ => false
  | _ => true

/-- The buffer index an instruction stores to: the count before it is incremented, in `ReadPayload` only (R88). -/
def storeIndex (i : Instr) (s : State) : Option Nat :=
  match i with
  | .pushReadPayload _ => some s.cnt.toNat
  | .push _ => if s.st = .readPayload then some s.cnt.toNat else none
  | _ => none

/-- A run of bytes without a `SYNC1 SYNC2` pair (41_rx_parser.md R93 (a)). -/
def noSyncPair (cfg : Config) (bytes : List Byte) : Prop :=
  ∀ k, ¬ (bytes[k]? = some cfg.sync1 ∧ bytes[k + 1]? = some cfg.sync2)

end Sys2Proof.Machine
end

