-- ==== Sys2Proof/Certificates/Slice0/Obligations.lean ====
section
/-! DEFINITION. The statements for the provers, from the numbered rules of spec/. -/

open Sys2Proof Sys2Proof.Machine

/-! ## What each instruction does -/

/-- 41_rx_parser.md R82: the two rows of `PUSH` in `SeekSync1`. Only `st` is written, the event is `NONE`. -/
def Obligations.PushSeekSync1Result : Prop :=
  ∀ (b : Byte) (s : State),
    exec .pushSeekSync1Sync s = .next { s with st := .seekSync2, rxEvent := some Event.silent } ∧
    exec (.pushSeekSync1Other b) s =
      .next { s with st := if b = block.sync1 then .seekSync2 else .seekSync1, rxEvent := some Event.silent }

/-- R83: the two rows of `PUSH` in `SeekSync2`, and the rule at every configuration, `SYNC1 = SYNC2` among them: the
`SYNC2` test is made first. -/
def Obligations.PushSeekSync2Result : Prop :=
  (∀ s : State, exec .pushSeekSync2Sync s =
      .next { s with st := .readClass, ckA := 0, ckB := 0, cnt := 0, rxEvent := some Event.silent }) ∧
  (∀ (b : Byte) (s : State), exec (.pushSeekSync2Other b) s =
      if b = block.sync2 then
        .next { s with st := .readClass, ckA := 0, ckB := 0, cnt := 0, rxEvent := some Event.silent }
      else .next { s with st := if b = block.sync1 then .seekSync2 else .seekSync1, rxEvent := some Event.silent }) ∧
  (∀ (cfg : Config) (b : Byte) (s : State), pushSeekSync2 cfg b s =
      if b = cfg.sync2 then
        .next { s with st := .readClass, ckA := 0, ckB := 0, cnt := 0, rxEvent := some Event.silent }
      else .next { s with st := if b = cfg.sync1 then .seekSync2 else .seekSync1, rxEvent := some Event.silent })

/-- R84, R85, R86 with `Acc` of 43_checksum.md R112: class, message ID and low length byte. -/
def Obligations.PushHeaderBytesResult : Prop :=
  ∀ (b : Byte) (s : State),
    exec (.pushReadClass b) s =
      .next { s with cls := b, ckA := s.ckA + b, ckB := s.ckB + (s.ckA + b), st := .readId, rxEvent := some Event.silent } ∧
    exec (.pushReadId b) s =
      .next { s with id := b, ckA := s.ckA + b, ckB := s.ckB + (s.ckA + b), st := .readLenLow, rxEvent := some Event.silent } ∧
    exec (.pushReadLenLow b) s =
      .next { s with len := b.setWidth 16, ckA := s.ckA + b, ckB := s.ckB + (s.ckA + b), st := .readLenHigh,
                     rxEvent := some Event.silent }

/-- R87 with R91: the capacity bound on the assembled length, strict; a length of 0 skips the payload. -/
def Obligations.PushReadLenHighResult : Prop :=
  ∀ (b : Byte) (s : State),
    exec (.pushReadLenHigh b) s =
      .next (
        if block.pCap.val < s.len.toNat % 256 + 256 * b.toNat then
          { s with st := if block.rescanOnReject = true ∧ b = block.sync1 then .seekSync2 else .seekSync1, cls := 0, id := 0,
                   len := 0, cnt := 0, ckA := 0, ckB := 0, rxCkA := 0, rxEvent := some (.bare .rejectOversize) }
        else
          { s with st := if s.len.toNat % 256 + 256 * b.toNat = 0 then .readChecksumA else .readPayload,
                   len := BitVec.ofNat 16 (s.len.toNat % 256 + 256 * b.toNat),
                   ckA := s.ckA + b, ckB := s.ckB + (s.ckA + b), rxEvent := some Event.silent })

/-- R88: where the write index exists, the byte is stored at the count before it is incremented, and the payload state is
left when the new count is the length. The first part is the rule at every configuration, the second the instruction
of this block. -/
def Obligations.PushReadPayloadResult : Prop :=
  (∀ (cfg : Config) (b : Byte) (s : State), s.cnt.toNat < cfg.pCap.val →
    pushReadPayload cfg b s =
      .next { s with buf := Memory.write s.buf s.cnt.toNat b, cnt := s.cnt + 1, ckA := s.ckA + b,
                     ckB := s.ckB + (s.ckA + b), st := if s.cnt + 1 = s.len then .readChecksumA else s.st,
                     rxEvent := some Event.silent }) ∧
  (∀ (b : Byte) (s : State), s.cnt.toNat < block.pCap.val →
    exec (.pushReadPayload b) s =
      .next { s with buf := Memory.write s.buf s.cnt.toNat b, cnt := s.cnt + 1, ckA := s.ckA + b,
                     ckB := s.ckB + (s.ckA + b), st := if s.cnt + 1 = s.len then .readChecksumA else s.st,
                     rxEvent := some Event.silent })

/-- 20_memory.md R40: an index from P_CAP on does not exist, so a `BufWrite` there stops the model (log entry 10). -/
def Obligations.PushReadPayloadOutsideBufferFaults : Prop :=
  ∀ (b : Byte) (s : State), block.pCap.val ≤ s.cnt.toNat →
    exec (.pushReadPayload b) s = .fault .bufferIndexOutOfRange

/-- R89: the first checksum byte is kept, not compared and not accumulated. -/
def Obligations.PushReadChecksumAResult : Prop :=
  ∀ (b : Byte) (s : State),
    exec (.pushReadChecksumA b) s = .next { s with rxCkA := b, st := .readChecksumB, rxEvent := some Event.silent }

/-- R90 with R81 and R91: accept when both bytes match, else reject. -/
def Obligations.PushReadChecksumBResult : Prop :=
  ∀ (b : Byte) (s : State),
    exec (.pushReadChecksumB b) s =
      .next (
        if s.rxCkA = s.ckA ∧ b = s.ckB then
          { s with st := .seekSync1, cls := 0, id := 0, len := 0, cnt := 0, ckA := 0, ckB := 0, rxCkA := 0,
                   rxEvent := some (demux block.registry s.cls s.id s.len (payloadView s.buf s.len)) }
        else
          { s with st := if block.rescanOnReject = true ∧ b = block.sync1 then .seekSync2 else .seekSync1, cls := 0, id := 0,
                   len := 0, cnt := 0, ckA := 0, ckB := 0, rxCkA := 0, rxEvent := some (.bare .rejectChecksum) })

/-- R80: `PUSH b` does what the rule of the state register's value does. -/
def Obligations.PushDispatchesOnState : Prop :=
  ∀ (b : Byte) (s : State), exec (.push b) s =
    match s.st with
    | .seekSync1 => exec (.pushSeekSync1Other b) s
    | .seekSync2 => exec (.pushSeekSync2Other b) s
    | .readClass => exec (.pushReadClass b) s
    | .readId => exec (.pushReadId b) s
    | .readLenLow => exec (.pushReadLenLow b) s
    | .readLenHigh => exec (.pushReadLenHigh b) s
    | .readPayload => exec (.pushReadPayload b) s
    | .readChecksumA => exec (.pushReadChecksumA b) s
    | .readChecksumB => exec (.pushReadChecksumB b) s

/-- R92: the transition table. `PUSH` completes from every state whose write index, if it has one, exists, with the table's
next state, event and registers written, and with every byte of the buffer as before but `buf[cnt]` in `ReadPayload`. -/
def Obligations.PushFollowsTransitionTable : Prop :=
  ∀ (b : Byte) (s : State), (s.st = .readPayload → s.cnt.toNat < block.pCap.val) →
    ∃ t, exec (.push b) s = .next t ∧ t.st = tableNext block s b ∧
      (∃ e, t.rxEvent = some e ∧ e.kind ∈ tableEvents block s b) ∧ tableRegisters block s b t ∧
      ∀ a, storeIndex (.push b) s ≠ some a → Memory.read t.buf a = Memory.read s.buf a

/-- 42_rx_control.md R100: every word with `op = 0b01` is `FLUSH`, whatever its data bits; it performs `Idle()` in every state,
emits `NONE` and does not write the buffer. -/
def Obligations.FlushResult : Prop :=
  (∀ w : CmdWord, 0x100 ≤ w.toNat → w.toNat ≤ 0x1FF → decodeCommand w = .flush (cmdData w)) ∧
  ∀ (data : Byte) (s : State),
    exec (.flush data) s =
      .next { s with st := .seekSync1, cls := 0, id := 0, len := 0, cnt := 0, ckA := 0, ckB := 0, rxCkA := 0,
                     rxEvent := some Event.silent }

/-- R101: every word from 0x200 on is reserved; it reports `ILLEGAL_COMMAND` with every other field 0 and changes nothing else. -/
def Obligations.ReservedWordResult : Prop :=
  (∀ w : CmdWord, 0x200 ≤ w.toNat → decodeCommand w = .reserved w) ∧
  ∀ (w : CmdWord) (s : State), exec (.reserved w) s =
    .next { s with rxEvent := some { kind := .illegalCommand, evDef := 0, evCls := 0, evId := 0, evLen := 0, evCount := 0,
                                     payload := none } }

/-- 45_tx_framer.md R140 and R141: the frame, or `TX_TOO_LONG` and no bytes; the bytes go to the stream out after those of
earlier transactions (R144), in the model's record of them (log entry 6). -/
def Obligations.TxFrameResult : Prop :=
  ∀ (c i : Byte) (p : List Byte) (s : State),
    exec (.txFrame c i p) s =
      if 65535 < p.length then .next { s with txResult := some .tooLong }
      else
        let hdr := [c, i, BitVec.ofNat 8 (p.length % 256), BitVec.ofNat 8 (p.length / 256)]
        let bytes := [block.sync1, block.sync2] ++ hdr ++ p ++ [(ck (hdr ++ p)).1, (ck (hdr ++ p)).2]
        .next { s with txResult := some (.ok bytes), txStream := s.txStream ++ bytes }

/-! ## A step -/

/-- A step whose next move is an RX word runs the instruction the key of word and state decodes to; one whose next move is a
transaction runs that `TX_FRAME`; one whose next move is a consumer read of any index, the indices from `P_CAP` on among
them, is that read and completes. The step only takes the move off the input, the model's form of the host (log entry 4). -/
def Obligations.StepRunsDecodedInstruction : Prop :=
  (∀ (s : State) (w : CmdWord) (rest : List HostMove) (i : Instr), s.input = .rx w :: rest →
    decode block (.key14 (keyOf s.st.code w)) = .ok i → i.wellFormed block = true →
    step s = exec i { s with input := rest }) ∧
  (∀ (s : State) (c i : Byte) (p : List Byte) (rest : List HostMove), s.input = .tx c i p :: rest →
    step s = exec (.txFrame c i p) { s with input := rest }) ∧
  (∀ (s : State) (k : Nat) (rest : List HostMove), s.input = .bufRead k :: rest →
    step s = .next (consumerRead k { s with input := rest }))

/-- 70_reset_and_hazards.md R170: `rst` performs `Idle()`, emits no event, writes neither the buffer nor TX, and discards a command
presented with it. That the event record is cleared and the other outputs are kept is the model's choice (log entries 5, 15, 16). -/
def Obligations.ResetInputResult : Prop :=
  ∀ (s : State) (presented : Option CmdWord) (rest : List HostMove), s.input = .rst presented :: rest →
    step s = .next { s with st := .seekSync1, cls := 0, id := 0, len := 0, cnt := 0, ckA := 0, ckB := 0, rxCkA := 0,
                            rxEvent := none, input := rest }

/-- 41_rx_parser.md R94: with no move nothing changes. That a pause is a step is the model's choice (log entry 4). -/
def Obligations.NoMoveChangesNothing : Prop := ∀ s : State, s.input = [] → step s = .next s

/-- 30_encoding.md R66 and R69 agree: every one of the 1024 words, in every state, is dispatched by the key table to an instruction
that does what the command does. -/
def Obligations.KeyDispatchAgreesWithCommand : Prop :=
  ∀ (w : CmdWord) (s : State), ∃ i, decode block (.key14 (keyOf s.st.code w)) = .ok i ∧ i.wellFormed block = true ∧
    exec i s = exec (decodeCommand w) s

/-- No move of the host stops the machine from a state that meets the invariant: no word of an RX command, no transaction,
no reset, no consumer read at whatever index, no pause (60_exceptions.md R152). -/
def Obligations.NoStepStopsFromInvariant : Prop :=
  ∀ s : State, Inv block s → ∃ t, step s = .next t

/-! ## The invariant -/

/-- 10_state.md R30 holds at reset, in the form of log entry 21. -/
def Obligations.InvariantAtReset : Prop := Inv block State.reset

/-- R30, in the form of log entry 21, is kept by every step, whatever the host does. -/
def Obligations.StepKeepsInvariant : Prop := ∀ s t : State, Inv block s → step s = .next t → Inv block t

/-! ## Frames: what is left unchanged -/

/-- 45_tx_framer.md R143 and 00_scope.md R7: no RX instruction changes TX's result, the stream out, the host's moves or the consumer's side. -/
def Obligations.RxLeavesTxAndPorts : Prop :=
  ∀ (i : Instr) (s t : State), isRx i = true → exec i s = .next t →
    t.txResult = s.txResult ∧ t.txStream = s.txStream ∧ t.input = s.input ∧ t.readData = s.readData ∧
      t.freeCount = s.freeCount

/-- R143: a `TX_FRAME` changes no RX register, no byte of the buffer and not the RX event. -/
def Obligations.TxLeavesRx : Prop :=
  ∀ (c i : Byte) (p : List Byte) (s : State), ∃ t, exec (.txFrame c i p) s = .next t ∧
    t.st = s.st ∧ t.cls = s.cls ∧ t.id = s.id ∧ t.len = s.len ∧ t.cnt = s.cnt ∧ t.ckA = s.ckA ∧ t.ckB = s.ckB ∧
    t.rxCkA = s.rxCkA ∧ (∀ a, Memory.read t.buf a = Memory.read s.buf a) ∧ t.rxEvent = s.rxEvent ∧ t.input = s.input ∧
    t.readData = s.readData ∧ t.freeCount = s.freeCount

/-- Every byte of the buffer other than the one at the index an instruction stores to reads as before; an instruction
other than `PUSH` in `ReadPayload` stores nowhere (20_memory.md R40, 41_rx_parser.md R88). -/
def Obligations.BufferUnchangedElsewhere : Prop :=
  ∀ (i : Instr) (s t : State), exec i s = .next t →
    ∀ a, storeIndex i s ≠ some a → Memory.read t.buf a = Memory.read s.buf a

/-- The byte stored by `PUSH` in `ReadPayload` reads back (R88), at every configuration, this block's among them. -/
def Obligations.StoredPayloadByteReadsBack : Prop :=
  (∀ (b : Byte) (s : State),
    exec (.pushReadPayload b) s = pushReadPayload block b s ∧ exec (.push b) s = push block b s) ∧
  ∀ (cfg : Config) (b : Byte) (s t : State),
    (pushReadPayload cfg b s = .next t → Memory.read t.buf s.cnt.toNat = some b) ∧
    (s.st = .readPayload → push cfg b s = .next t → Memory.read t.buf s.cnt.toNat = some b)

/-- 20_memory.md R49, 70_reset_and_hazards.md R180: an RX instruction and a `TX_FRAME` give the same state in either order. -/
def Obligations.RxAndTxCommute : Prop :=
  ∀ (i : Instr) (c m : Byte) (p : List Byte) (s a b : State), isRx i = true → exec i s = .next a →
    exec (.txFrame c m p) s = .next b → exec (.txFrame c m p) a = exec i b

/-- 10_state.md R27: a transmit result depends on its operands alone. -/
def Obligations.TxResultIgnoresState : Prop :=
  ∀ (c i : Byte) (p : List Byte) (s₁ s₂ t₁ t₂ : State),
    exec (.txFrame c i p) s₁ = .next t₁ → exec (.txFrame c i p) s₂ = .next t₂ → t₁.txResult = t₂.txResult

/-! ## Events -/

/-- 30_encoding.md R67: every RX step emits exactly one record, whose unused fields are 0. -/
def Obligations.RxStepEmitsOneRecord : Prop :=
  ∀ (i : Instr) (s t : State), isRx i = true → exec i s = .next t → ∃ e, t.rxEvent = some e ∧ e.wellFormed

/-- 60_exceptions.md R154: only the `ReadLenHigh` reject, the `ReadChecksumB` outcome and a reserved word emit anything but `NONE`. -/
def Obligations.OnlyThreePathsReport : Prop :=
  ∀ (i : Instr) (s t : State) (e : Event), isRx i = true → exec i s = .next t → t.rxEvent = some e → e.kind ≠ .quiet →
    (∃ b, (i = .pushReadLenHigh b ∨ (i = .push b ∧ s.st = .readLenHigh)) ∧ e = .bare .rejectOversize) ∨
    (∃ b, i = .pushReadChecksumB b ∨ (i = .push b ∧ s.st = .readChecksumB)) ∨
    (∃ w, i = .reserved w ∧ e = .bare .illegalCommand)

/-- R68: the event codes are those of the table, and code 7 is never one. R70: the codes of the transmit results. -/
def Obligations.EventCodes : Prop :=
  EventKind.code .quiet = 0 ∧ EventKind.code .deliver = 1 ∧ EventKind.code .unrecognized = 2 ∧
  EventKind.code .rejectChecksum = 3 ∧ EventKind.code .rejectOversize = 4 ∧ EventKind.code .lengthMismatch = 5 ∧
  EventKind.code .illegalCommand = 6 ∧ (∀ k : EventKind, k.code ≠ 7) ∧
  (∀ bytes, TxResult.code (.ok bytes) = 0) ∧ TxResult.code .tooLong = 1

/-! ## The demultiplexer and the registry -/

/-- 44_demux_length.md R122: the lookup answers the index of the one entry with the exact key, and `ABSENT` only if there is none. -/
def Obligations.RegLookupFindsExactKey : Prop :=
  ∀ (r : Registry) (c i : Byte),
    (∀ k e, regLookup r c i = some (k, e) ↔ r.entries[k]? = some e ∧ e.eCls = c ∧ e.eId = i) ∧
    (regLookup r c i = none ↔ ∀ e ∈ r.entries, ¬ (e.eCls = c ∧ e.eId = i))

/-- R123 to R128 at every configuration: the event of a frame whose trailer matches, by the registry's answer and the entry's rule,
with the definition index and the element count exact. -/
def Obligations.AcceptedFrameEvent : Prop :=
  ∀ (cfg : Config) (b : Byte) (s : State), s.rxCkA = s.ckA → b = s.ckB →
    ∃ t e, pushReadChecksumB cfg b s = .next t ∧ t.rxEvent = some e ∧ e.evCls = s.cls ∧ e.evId = s.id ∧ e.evLen = s.len ∧
      (regLookup cfg.registry s.cls s.id = none →
        e.kind = .unrecognized ∧ e.evDef = 0 ∧ e.evCount = 0 ∧ e.payload = some (payloadView s.buf s.len)) ∧
      (∀ k entry, regLookup cfg.registry s.cls s.id = some (k, entry) → e.evDef.toNat = k ∧
        (∀ L, entry.eRule = .fixed L →
          if s.len = L then e.kind = .deliver ∧ e.evCount = 0 ∧ e.payload = some (payloadView s.buf s.len)
          else e.kind = .lengthMismatch ∧ e.evCount = 0 ∧ e.payload = none) ∧
        (∀ P W, entry.eRule = .trailing P W →
          if P.toNat ≤ s.len.toNat ∧ (s.len.toNat - P.toNat) % W.toNat = 0 then
            e.kind = .deliver ∧ e.evCount.toNat = (s.len.toNat - P.toNat) / W.toNat ∧
              e.payload = some (payloadView s.buf s.len)
          else e.kind = .lengthMismatch ∧ e.evCount = 0 ∧ e.payload = none))

/-- 44_demux_length.md R129: from a state that meets the invariant, no delivery is of an entry whose fixed length or fixed part
exceeds the capacity. -/
def Obligations.OversizeEntriesNeverDelivered : Prop :=
  ∀ (cfg : Config) (b : Byte) (s t : State) (e : Event), Inv cfg s → push cfg b s = .next t → t.rxEvent = some e →
    e.kind = .deliver → ∃ entry, cfg.registry.entries[e.evDef.toNat]? = some entry ∧
      (∀ L, entry.eRule = .fixed L → L.toNat ≤ cfg.pCap.val) ∧
      (∀ P W, entry.eRule = .trailing P W → P.toNat ≤ cfg.pCap.val)

/-- 00_scope.md R5: a registry has at most 65536 entries, so a definition index fits `ev_def`. -/
def Obligations.RegistrySizeBound : Prop :=
  ∀ r : Registry, r.nDef ≤ 65536 ∧
    ∀ c i k e, regLookup r c i = some (k, e) → (BitVec.ofNat 16 k : U16).toNat = k

/-- 30_encoding.md R71: ROM words and legal entries stand for each other, no bit lost; the other words are refused. -/
def Obligations.RomWordRoundTrip : Prop :=
  (∀ e : RegEntry, e.eRule.legal = true → decodeRomWord (encodeRomWord e) = .ok e) ∧
  (∀ (w : RomWord) (e : RegEntry), decodeRomWord w = .ok e → encodeRomWord e = w ∧ e.eRule.legal = true) ∧
  (∀ w : RomWord, (∃ x, decodeRomWord w = .error x) ↔
    (w.extractLsb' 32 7 ≠ 0 ∨ (w.getLsbD 39 = false ∧ w.extractLsb' 0 16 ≠ 0) ∨
      (w.getLsbD 39 = true ∧ w.extractLsb' 0 16 = 0)))

/-- 00_scope.md R6: a block is built exactly from a capacity of at most 65535 and an image of legal words with unique keys, and it
has the parameters given. An image decodes exactly when its words do, one by one and in order. -/
def Obligations.OnlyLegalConfigurationsBuild : Prop :=
  (∀ (image : List RomWord) (es : List RegEntry),
    decodeRomImage image = .ok es ↔ List.Forall₂ (fun w e => decodeRomWord w = .ok e) image es) ∧
  ∀ raw : RawConfig,
    ((∃ cfg, buildConfig raw = .ok cfg) ↔
      raw.pCap ≤ 65535 ∧ ∃ es, decodeRomImage raw.romImage = .ok es ∧ (es.map RegEntry.key).Nodup) ∧
    ∀ cfg, buildConfig raw = .ok cfg →
      cfg.sync1 = raw.sync1 ∧ cfg.sync2 = raw.sync2 ∧ cfg.rescanOnReject = raw.rescanOnReject ∧ cfg.pCap.val = raw.pCap ∧
        decodeRomImage raw.romImage = .ok cfg.registry.entries

/-! ## The checksum -/

/-- 43_checksum.md R110, R112: `CK` starts at (0, 0), and each further byte updates it as `Acc` updates the accumulators. -/
def Obligations.AccExtendsChecksum : Prop :=
  ck [] = (0, 0) ∧
  ∀ (bytes : List Byte) (b : Byte) (s : State), ck bytes = (s.ckA, s.ckB) →
    ck (bytes ++ [b]) = (s.ckA + b, s.ckB + (s.ckA + b)) ∧ ck (bytes ++ [b]) = ((acc b s).ckA, (acc b s).ckB)

/-- R114: the closed form. -/
def Obligations.ChecksumClosedForm : Prop :=
  ∀ s : List Byte,
    (ck s).1.toNat = (∑ k ∈ Finset.range s.length, (s.getD k 0).toNat) % 256 ∧
    (ck s).2.toNat = (∑ k ∈ Finset.range s.length, (s.length - k) * (s.getD k 0).toNat) % 256

/-- R116 (a), (c): changing one byte changes `A`; two patterns of several bytes go undetected. -/
def Obligations.ChecksumDetection : Prop :=
  (∀ (l r : List Byte) (x y : Byte), x ≠ y → (ck (l ++ x :: r)).1 ≠ (ck (l ++ y :: r)).1) ∧
  (∀ (l r : List Byte) (x y z d : Byte), ck (l ++ (x + d) :: (y - 2 * d) :: (z + d) :: r) = ck (l ++ x :: y :: z :: r)) ∧
  (∀ (l m r : List Byte) (x y d : Byte), m.length = 255 →
    ck (l ++ (x + d) :: m ++ (y - d) :: r) = ck (l ++ x :: m ++ y :: r))

/-! ## Encodings -/

/-- 10_state.md R20: the nine states have the codes 0 to 8, in the order of the table, and no other code is one. -/
def Obligations.StateCodes : Prop :=
  [RxState.seekSync1, .seekSync2, .readClass, .readId, .readLenLow, .readLenHigh, .readPayload, .readChecksumA,
    .readChecksumB].map RxState.code = [0, 1, 2, 3, 4, 5, 6, 7, 8] ∧
  (∀ st : RxState, RxState.ofCode st.code = some st) ∧
  ∀ c : BitVec 4, (RxState.ofCode c = none ↔ 9 ≤ c.toNat)

/-- 30_encoding.md R66: every word decodes by its selector, whatever its data bits. -/
def Obligations.CommandSelectorTable : Prop :=
  ∀ w : CmdWord,
    (w.toNat / 256 = 0 → decodeCommand w = .push (BitVec.ofNat 8 (w.toNat % 256))) ∧
    (w.toNat / 256 = 1 → decodeCommand w = .flush (BitVec.ofNat 8 (w.toNat % 256))) ∧
    (2 ≤ w.toNat / 256 → decodeCommand w = .reserved w)

/-- Decoding the encoding of a well-formed instruction gives it back, at every configuration; only a transaction of more
than 65535 bytes has no encoding (R65, R66, R69). That the encoding of a transaction is its output frame (R60, R140), and that a
too-long one has none, is the model's choice (log entry 13). -/
def Obligations.DecodeEncodeRoundTrip : Prop :=
  ∀ (cfg : Config) (i : Instr), i.wellFormed cfg = true →
    (∀ e, encode cfg i = some e → decode cfg e = .ok i) ∧
    (encode cfg i = none ↔ ∃ c m p, i = .txFrame c m p ∧ 65535 < p.length)

/-- R69: a key is refused exactly when its state code is 9 to 15 and its selector 00; else it gives a well-formed
instruction, whose encoding is the key when it is a `PUSH`. -/
def Obligations.KeyTableCovers : Prop :=
  ∀ (cfg : Config) (k : Key),
    (decodeKey cfg k = .error .reservedStateCode ↔ 9 ≤ (keyState k).toNat ∧ cmdOp (keyCommand k) = 0) ∧
    ∀ i, decodeKey cfg k = .ok i → i.wellFormed cfg = true ∧
      (cmdOp (keyCommand k) = 0 → encode cfg i = some (.key14 k))

/-- Frames and transactions: bytes that decode to a transaction are its frame (R60, R140). Reading output bytes back as a
transaction is the model's choice (log entry 13). -/
def Obligations.DecodedFrameIsTheFrame : Prop :=
  ∀ (cfg : Config) (bytes : List Byte) (i : Instr), decodeFrame cfg bytes = .ok i →
    ∃ c m p, i = .txFrame c m p ∧ p.length ≤ 65535 ∧ bytes = frame cfg c m p

/-- Words written out from the spec's encodings (R66, R69, 95_test_vectors.md L2.10). That a table word of 16 bits is read as a key
is the model's choice (log entry 12), and so is the frame as the encoding of a transaction (log entry 13). -/
def Obligations.SampleWordsDecode : Prop :=
  decodeCommand 0b0010110101#10 = .push 0xB5 ∧ decodeCommand 0b0100000000#10 = .flush 0 ∧
  decodeCommand 0b1100000000#10 = .reserved 0x300 ∧
  decodeTableWord 16 0b00000010110101 = some .pushSeekSync1Sync ∧
  decodeTableWord 16 0b00010001100010 = some .pushSeekSync2Sync ∧
  decodeTableWord 16 0b00100000000001 = some (.pushReadClass 1) ∧
  decodeTableWord 16 0b10000000110010 = some (.pushReadChecksumB 0x32) ∧
  decode block (.txn [0xB5, 0x62, 0x0A, 0x04, 0x00, 0x00, 0x0E, 0x34]) = .ok (.txFrame 0x0A 0x04 [])

/-- 30_encoding.md R60 to R62: a frame has `len + 8` bytes, with each field at its offset. -/
def Obligations.FrameLayout : Prop :=
  ∀ (cfg : Config) (c i : Byte) (p : List Byte), p.length ≤ 65535 →
    (frame cfg c i p).length = p.length + 8 ∧
    (frame cfg c i p).take 4 = [cfg.sync1, cfg.sync2, c, i] ∧
    (∃ lo hi : Byte, ((frame cfg c i p).drop 4).take 2 = [lo, hi] ∧ lo.toNat + 256 * hi.toNat = p.length) ∧
    ((frame cfg c i p).drop 6).take p.length = p ∧
    (frame cfg c i p).drop (6 + p.length) =
      [(ck (((frame cfg c i p).drop 2).take (p.length + 4))).1, (ck (((frame cfg c i p).drop 2).take (p.length + 4))).2]

/-! ## The read window -/

/-- 20_memory.md R47 and 93_implementation_defined.md section 1: while a payload is on offer, the consumer reads its bytes; at an index
no payload on offer reaches a read is any value, here the next free one (log entry 8), and under the invariant the indices
from `P_CAP` on are such. A read changes nothing else that RX or TX sees. -/
def Obligations.PayloadReadWindow : Prop :=
  ∀ (cfg : Config) (k : Nat) (s : State),
    (∀ e p v, Inv cfg s → s.rxEvent = some e → e.payload = some p → p[k]? = some v →
      consumerRead k s = { s with readData := some v, freeCount := s.freeCount + 1 }) ∧
    ((∀ e p, s.rxEvent = some e → e.payload = some p → e.evLen.toNat ≤ k) →
      consumerRead k s = { s with readData := some (Config.freeByte s.freeCount), freeCount := s.freeCount + 1 }) ∧
    (Inv cfg s → cfg.pCap.val ≤ k →
      consumerRead k s = { s with readData := some (Config.freeByte s.freeCount), freeCount := s.freeCount + 1 })

/-- R47 with 42_rx_control.md R100 and R101: a `FLUSH`, a reserved word and every `PUSH` short of an outcome end the window. -/
def Obligations.CommandEndsReadWindow : Prop :=
  ∀ (i : Instr) (s t : State), isRx i = true → exec i s = .next t →
    (∀ b, i ≠ .pushReadChecksumB b) → (∀ b, ¬ (i = .push b ∧ s.st = .readChecksumB)) → windowLength t = 0

/-! ## The machine on a stream of bytes -/

/-- 42_rx_control.md R102 on the machine itself. No step looks at the moves still to come: as far as the moves `ms` reach, a run is
the same with and without `ns` after them. So a chunk `ys` given after the chunk `xs` has run to its end does what it does
when both are given together, step for step, and a chunk boundary has no effect. From a state that meets the invariant
each byte of a chunk is one step with one event record. The list of moves is the model's form of the host (log entry 4). -/
def Obligations.ChunkBoundariesInvisible : Prop :=
  (∀ (ms ns : List HostMove) (k : Nat) (s : State), k ≤ ms.length →
    Host.Core.run Sys2Proof.core k ({ s with input := ms ++ ns } : State) =
      andThen (Host.Core.run Sys2Proof.core k ({ s with input := ms } : State))
        (fun t => .next { t with input := t.input ++ ns })) ∧
  (∀ (xs ys : List Byte) (s t : State),
    Host.Core.run Sys2Proof.core xs.length ({ s with input := chunk xs } : State) = .next t →
      t.input = [] ∧
      ∀ k, Host.Core.run Sys2Proof.core (xs.length + k) ({ s with input := chunk (xs ++ ys) } : State) =
        Host.Core.run Sys2Proof.core k ({ t with input := chunk ys } : State)) ∧
  (∀ (xs : List Byte) (s : State) (k : Nat), Inv block s → 0 < k → k ≤ xs.length →
    ∃ (t : State) (e : Event), Host.Core.run Sys2Proof.core k ({ s with input := chunk xs } : State) = .next t ∧
      t.rxEvent = some e ∧ e.wellFormed)

/-- 60_exceptions.md R155, 41_rx_parser.md R95: what a frame of any class, ID, payload and trailer does at every configuration, from
`SeekSync1`. With a length within the capacity it takes `len + 8` steps, silent but the last; a trailer other than `CK`
gives `REJECT_CHECKSUM`, `CK` gives the demultiplexer's event. Above the capacity the sixth step rejects. -/
def Obligations.FrameOutcome : Prop :=
  ∀ (cfg : Config) (c i a b : Byte) (p : List Byte) (s : State), s.st = .seekSync1 → p.length ≤ 65535 →
    if p.length ≤ cfg.pCap.val then
      ∃ t, feed cfg ([cfg.sync1, cfg.sync2] ++ coveredBytes c i p ++ [a, b]) s =
          some (t, List.replicate (p.length + 7) (some Event.silent) ++
            [some (if (a, b) = ck (coveredBytes c i p) then demux cfg.registry c i (BitVec.ofNat 16 p.length) p
              else .bare .rejectChecksum)]) ∧
        registersCleared t ∧ t.st = if (a, b) = ck (coveredBytes c i p) then .seekSync1 else rejectState cfg b
    else
      ∃ t, feed cfg ([cfg.sync1, cfg.sync2] ++ frameHeader c i (BitVec.ofNat 16 p.length)) s =
          some (t, List.replicate 5 (some Event.silent) ++ [some (.bare .rejectOversize)]) ∧
        registersCleared t ∧ t.st = rejectState cfg (BitVec.ofNat 8 (p.length / 256))

/-- 45_tx_framer.md R142 on the machine itself: the bytes of a frame, presented as successive commands to a receiver in `SeekSync1`. A
frame that fits is silent until its last step, which emits the demultiplexer's event with the payload sent and ends in
`SeekSync1`; one that does not is rejected at its sixth byte. -/
def Obligations.TransmittedFrameIsReceived : Prop :=
  ∀ (c i : Byte) (p : List Byte) (s : State) (rest : List HostMove), s.st = .seekSync1 → p.length ≤ 65535 →
    s.input = chunk (frame block c i p) ++ rest →
    if p.length ≤ block.pCap.val then
      (∀ k, 0 < k → k < p.length + 8 →
        ∃ t : State, Host.Core.run Sys2Proof.core k s = .next t ∧ t.rxEvent = some Event.silent) ∧
      ∃ t : State, Host.Core.run Sys2Proof.core (p.length + 8) s = .next t ∧ t.st = .seekSync1 ∧ registersCleared t ∧
        t.input = rest ∧ t.rxEvent = some (demux block.registry c i (BitVec.ofNat 16 p.length) p)
    else
      (∀ k, 0 < k → k < 6 →
        ∃ t : State, Host.Core.run Sys2Proof.core k s = .next t ∧ t.rxEvent = some Event.silent) ∧
      ∃ t : State, Host.Core.run Sys2Proof.core 6 s = .next t ∧ t.rxEvent = some (.bare .rejectOversize)

/-- 43_checksum.md R116 (a), (b) on the receiver: a frame that fits, changed in one byte of class, ID, payload or trailer, is rejected with
`REJECT_CHECKSUM` at its last byte. -/
def Obligations.CorruptedFrameIsRejected : Prop :=
  ∀ (cfg : Config) (c i c' i' a b : Byte) (p p' : List Byte) (s : State), s.st = .seekSync1 → p.length ≤ cfg.pCap.val →
    ((c' ≠ c ∧ i' = i ∧ p' = p ∧ (a, b) = ck (coveredBytes c i p)) ∨
     (c' = c ∧ i' ≠ i ∧ p' = p ∧ (a, b) = ck (coveredBytes c i p)) ∨
     (c' = c ∧ i' = i ∧ (∃ l x y r, p = l ++ x :: r ∧ p' = l ++ y :: r ∧ x ≠ y) ∧ (a, b) = ck (coveredBytes c i p)) ∨
     (c' = c ∧ i' = i ∧ p' = p ∧ a ≠ (ck (coveredBytes c i p)).1 ∧ b = (ck (coveredBytes c i p)).2) ∨
     (c' = c ∧ i' = i ∧ p' = p ∧ a = (ck (coveredBytes c i p)).1 ∧ b ≠ (ck (coveredBytes c i p)).2)) →
    ∃ t, feed cfg ([cfg.sync1, cfg.sync2] ++ coveredBytes c' i' p' ++ [a, b]) s =
      some (t, List.replicate (p.length + 7) (some Event.silent) ++ [some (.bare .rejectChecksum)])

/-- 30_encoding.md R73 and R74: what each line of a command stream stands for; `sendframe` of a longer payload is refused. -/
def Obligations.AssemblerExpansion : Prop :=
  ∀ cfg : Config,
    (∀ b : Byte, ∃ w : CmdWord, assemble cfg (.push b) = .ok [.rx w] ∧ w.toNat = b.toNat) ∧
    assemble cfg .flush = .ok [.rx 0x100] ∧
    (∀ w, assemble cfg (.cmd w) = .ok [.rx w]) ∧
    (∀ c i p, assemble cfg (.tx c i p) = .ok [.tx c i p]) ∧
    (∀ bytes, assemble cfg (.pushs bytes) = .ok (bytes.map (fun b => .rx (b.setWidth 10)))) ∧
    (∀ c i p, assemble cfg (.sendframe c i p) =
      if p.length ≤ 65535 then .ok ((frame cfg c i p).map (fun b => .rx (b.setWidth 10))) else .error .payloadTooLong)

/-- R74: `badframe` is rejected wherever `sendframe` would be accepted. -/
def Obligations.BadframeIsRejected : Prop :=
  ∀ (cfg : Config) (c i : Byte) (p : List Byte) (s : State), s.st = .seekSync1 → p.length ≤ cfg.pCap.val →
    assemble cfg (.badframe c i p) = .ok (chunk (bumpLast (frame cfg c i p))) ∧
    ∃ t, feed cfg (bumpLast (frame cfg c i p)) s =
      some (t, List.replicate (p.length + 7) (some Event.silent) ++ [some (.bare .rejectChecksum)])

/-- 41_rx_parser.md R93 (a): a frame after any bytes without a `SYNC1 SYNC2` pair, a partial pair at their end included, is received
intact. -/
def Obligations.FrameAfterNoiseIsReceived : Prop :=
  ∀ (cfg : Config) (noise : List Byte) (c i : Byte) (p : List Byte) (s : State), cfg.sync1 ≠ cfg.sync2 →
    s.st = .seekSync1 → noSyncPair cfg noise → p.length ≤ cfg.pCap.val →
    ∃ t, feed cfg (noise ++ frame cfg c i p) s =
        some (t, List.replicate (noise.length + p.length + 7) (some Event.silent) ++
          [some (demux cfg.registry c i (BitVec.ofNat 16 p.length) p)]) ∧
      t.st = .seekSync1 ∧ registersCleared t

/-- 60_exceptions.md R152: from a state that meets the invariant, RX is back in `SeekSync1` or `SeekSync2` after at most `P_CAP + 6` bytes,
whatever they are, and after one `FLUSH`. -/
def Obligations.ReceiverRecovers : Prop :=
  ∀ (cfg : Config) (s : State), Inv cfg s →
    (∀ bytes : List Byte, bytes.length = cfg.pCap.val + 6 →
      ∃ k, k ≤ cfg.pCap.val + 6 ∧ ∃ t es, feed cfg (bytes.take k) s = some (t, es) ∧ frameInProgress t = false) ∧
    ∀ data, ∃ t, exec (.flush data) s = .next t ∧ t.st = .seekSync1
end

