-- ==== Sys2Proof/Laws/Decode.lean ====
section
/-! SUPPORT. Fields of words and the closed form of the key table. -/

namespace Sys2Proof

@[simp] theorem cmdOp_cmdWord (op : BitVec 2) (d : Byte) : cmdOp (cmdWord op d) = op := by
  exact BitVec.extractLsb'_append_eq_left

@[simp] theorem cmdData_cmdWord (op : BitVec 2) (d : Byte) : cmdData (cmdWord op d) = d := by
  exact BitVec.extractLsb'_append_eq_right

@[simp] theorem keyState_keyOf (st : BitVec 4) (w : CmdWord) : keyState (keyOf st w) = st := by
  exact BitVec.extractLsb'_append_eq_left

@[simp] theorem keyCommand_keyOf (st : BitVec 4) (w : CmdWord) : keyCommand (keyOf st w) = w := by
  exact BitVec.extractLsb'_append_eq_right

@[simp] theorem lowByte_u16OfBytes (lo hi : Byte) : lowByte (u16OfBytes lo hi) = lo := by
  exact BitVec.extractLsb'_append_eq_right

@[simp] theorem highByte_u16OfBytes (lo hi : Byte) : highByte (u16OfBytes lo hi) = hi := by
  exact BitVec.extractLsb'_append_eq_left

theorem u16OfBytes_toNat (lo hi : Byte) : (u16OfBytes lo hi).toNat = lo.toNat + 256 * hi.toNat := by
  have hlo := lo.isLt
  rw [u16OfBytes, BitVec.toNat_append, ← Nat.shiftLeft_add_eq_or_of_lt hlo, Nat.shiftLeft_eq]
  omega

theorem lowByte_toNat (v : U16) : (lowByte v).toNat = v.toNat % 256 := by simp [lowByte]

theorem highByte_toNat (v : U16) : (highByte v).toNat = v.toNat / 256 := by
  have := v.isLt
  simp [highByte, Nat.shiftRight_eq_div_pow]
  omega

@[simp] theorem u16OfBytes_low_high (v : U16) : u16OfBytes (lowByte v) (highByte v) = v := by
  apply BitVec.eq_of_toNat_eq
  rw [u16OfBytes_toNat, lowByte_toNat, highByte_toNat]
  omega

theorem cmdWord_op_data (w : CmdWord) : cmdWord (cmdOp w) (cmdData w) = w := by
  apply BitVec.eq_of_toNat_eq
  have h1 := (cmdData w).isLt
  have h2 := w.isLt
  rw [cmdWord, BitVec.toNat_append, ← Nat.shiftLeft_add_eq_or_of_lt h1, Nat.shiftLeft_eq]
  simp only [cmdOp, cmdData, BitVec.extractLsb'_toNat, Nat.shiftRight_eq_div_pow] at *
  omega

theorem keyOf_state_command (k : Key) : keyOf (keyState k) (keyCommand k) = k := by
  apply BitVec.eq_of_toNat_eq
  have h1 := (keyCommand k).isLt
  have h2 := k.isLt
  rw [keyOf, BitVec.toNat_append, ← Nat.shiftLeft_add_eq_or_of_lt h1, Nat.shiftLeft_eq]
  simp only [keyState, keyCommand, BitVec.extractLsb'_toNat, Nat.shiftRight_eq_div_pow] at *
  omega

/-- The row of a pushed byte in a state: the first of R69 whose condition holds. -/
def pushRow (cfg : Config) (st : RxState) (b : Byte) : Instr :=
  match st with
  | .seekSync1 => if b = cfg.sync1 then .pushSeekSync1Sync else .pushSeekSync1Other b
  | .seekSync2 => if b = cfg.sync2 then .pushSeekSync2Sync else .pushSeekSync2Other b
  | .readClass => .pushReadClass b
  | .readId => .pushReadId b
  | .readLenLow => .pushReadLenLow b
  | .readLenHigh => .pushReadLenHigh b
  | .readPayload => .pushReadPayload b
  | .readChecksumA => .pushReadChecksumA b
  | .readChecksumB => .pushReadChecksumB b

/-- Masking off the data bits leaves state and selector. -/
theorem key_mask_data (st : BitVec 4) (op : BitVec 2) (d : Byte) :
    keyOf st (cmdWord op d) &&& 0x3F00 = keyOf st (cmdWord op 0) := by
  apply BitVec.eq_of_getLsbD_eq
  intro i hi
  simp only [keyOf, cmdWord, BitVec.getLsbD_and, BitVec.getLsbD_append]
  interval_cases i <;> simp

theorem key_mask_all (k : Key) : k &&& 0x3FFF = k := by
  have : (0x3FFF : Key) = BitVec.allOnes 14 := by decide
  rw [this, BitVec.and_allOnes]

theorem key_mask_op (st : BitVec 4) (op : BitVec 2) (d : Byte) :
    keyOf st (cmdWord op d) &&& 0x0300 = keyOf 0 (cmdWord op 0) := by
  apply BitVec.eq_of_getLsbD_eq
  intro i hi
  simp only [keyOf, cmdWord, BitVec.getLsbD_and, BitVec.getLsbD_append]
  interval_cases i <;> simp

theorem key_mask_reserved (st : BitVec 4) (op : BitVec 2) (d : Byte) :
    keyOf st (cmdWord op d) &&& 0x0200 = keyOf 0 (cmdWord (op &&& 2) 0) := by
  apply BitVec.eq_of_getLsbD_eq
  intro i hi
  simp only [keyOf, cmdWord, BitVec.getLsbD_and, BitVec.getLsbD_append]
  interval_cases i <;> simp

theorem keyOf_inj {a b : BitVec 4} {v w : CmdWord} : keyOf a v = keyOf b w ↔ a = b ∧ v = w := by
  constructor
  · intro h
    exact ⟨by simpa using congrArg keyState h, by simpa using congrArg keyCommand h⟩
  · rintro ⟨rfl, rfl⟩
    rfl

theorem cmdWord_inj {a b : BitVec 2} {v w : Byte} : cmdWord a v = cmdWord b w ↔ a = b ∧ v = w := by
  constructor
  · intro h
    exact ⟨by simpa using congrArg cmdOp h, by simpa using congrArg cmdData h⟩
  · rintro ⟨rfl, rfl⟩
    rfl

/-- The table with its patterns as state and command. -/
theorem keyTable_fields (cfg : Config) : keyTable cfg =
    [ { name := .seekSync1Sync,  pattern := keyOf 0 (cmdWord 0 cfg.sync1), mask := 0x3FFF },
      { name := .seekSync1Other, pattern := keyOf 0 (cmdWord 0 0), mask := 0x3F00 },
      { name := .seekSync2Sync,  pattern := keyOf 1 (cmdWord 0 cfg.sync2), mask := 0x3FFF },
      { name := .seekSync2Other, pattern := keyOf 1 (cmdWord 0 0), mask := 0x3F00 },
      { name := .readClass,      pattern := keyOf 2 (cmdWord 0 0), mask := 0x3F00 },
      { name := .readId,         pattern := keyOf 3 (cmdWord 0 0), mask := 0x3F00 },
      { name := .readLenLow,     pattern := keyOf 4 (cmdWord 0 0), mask := 0x3F00 },
      { name := .readLenHigh,    pattern := keyOf 5 (cmdWord 0 0), mask := 0x3F00 },
      { name := .readPayload,    pattern := keyOf 6 (cmdWord 0 0), mask := 0x3F00 },
      { name := .readChecksumA,  pattern := keyOf 7 (cmdWord 0 0), mask := 0x3F00 },
      { name := .readChecksumB,  pattern := keyOf 8 (cmdWord 0 0), mask := 0x3F00 },
      { name := .flushRow,       pattern := keyOf 0 (cmdWord 1 0), mask := 0x0300 },
      { name := .reservedRow,    pattern := keyOf 0 (cmdWord 2 0), mask := 0x0200 } ] := rfl

/-- Every state code and every selector, one by one. -/
theorem selector_cases : ∀ op : BitVec 2, op = 0 ∨ op = 1 ∨ op = 2 ∨ op = 3 := by decide

theorem stateCode_cases : ∀ st : BitVec 4, st = 0 ∨ st = 1 ∨ st = 2 ∨ st = 3 ∨ st = 4 ∨ st = 5 ∨ st = 6 ∨ st = 7 ∨ st = 8 ∨
    (9 ≤ st.toNat ∧ RxState.ofCode st = none) := by decide

@[simp] theorem ofCode_code (st : RxState) : RxState.ofCode st.code = some st := by cases st <;> rfl

/-- The table on a key written as state, selector and data, whatever the sync bytes. -/
theorem decodeKey_fields (cfg : Config) (st : BitVec 4) (op : BitVec 2) (d : Byte) :
    decodeKey cfg (keyOf st (cmdWord op d)) =
      if op = 0 then
        match RxState.ofCode st with
        | some st => .ok (pushRow cfg st d)
        | none => .error .reservedStateCode
      else if op = 1 then .ok (.flush d) else .ok (.reserved (cmdWord op d)) := by
  simp only [decodeKey, keyTable_fields, List.find?_cons, key_mask_data, key_mask_all, key_mask_op, key_mask_reserved]
  have beq : ∀ (a b : BitVec 4) (o q : BitVec 2) (v w : Byte),
      (keyOf a (cmdWord o v) == keyOf b (cmdWord q w)) = (a == b && o == q && v == w) := by
    intro a b o q v w
    rw [Bool.eq_iff_iff]
    simp [keyOf_inj, cmdWord_inj, and_assoc]
  simp only [beq]
  rcases selector_cases op with rfl | rfl | rfl | rfl
  · rcases stateCode_cases st with rfl | rfl | rfl | rfl | rfl | rfl | rfl | rfl | rfl | ⟨h, hn⟩
    · by_cases h : d = cfg.sync1
      · simp [h, keyRowInstr, RxState.ofCode, RxState.code, pushRow]
      · simp [h, beq_eq_false_iff_ne.2 h, keyRowInstr, RxState.ofCode, RxState.code, pushRow]
    · by_cases h : d = cfg.sync2
      · simp [h, keyRowInstr, RxState.ofCode, RxState.code, pushRow]
      · simp [h, beq_eq_false_iff_ne.2 h, keyRowInstr, RxState.ofCode, RxState.code, pushRow]
    all_goals first
      | (simp [keyRowInstr, RxState.ofCode, RxState.code, pushRow]; done)
      | skip
    have hne : ∀ n : BitVec 4, n.toNat < 9 → (st == n) = false := by
      intro n hlt
      simp only [beq_eq_false_iff_ne, ne_eq]
      rintro rfl
      omega
    rw [hn]
    simp [hne]
  · simp [keyRowInstr]
  · simp [keyRowInstr]
  · simp [keyRowInstr]

/-- In a state, the table selects the row of the pushed byte. -/
theorem decodeKey_push (cfg : Config) (st : RxState) (b : Byte) :
    decodeKey cfg (keyOf st.code (cmdWord 0 b)) = .ok (pushRow cfg st b) := by simp [decodeKey_fields]

end Sys2Proof
end

