-- ==== Sys2Proof/Laws/State.lean ====
section
/-! SUPPORT. One lemma per field and update: what each named update of the state does to each field. -/

namespace Sys2Proof.Machine

@[simp] theorem setSt_st (st : RxState) (s : State) : (setSt st s).st = st := rfl
@[simp] theorem setSt_cls (st : RxState) (s : State) : (setSt st s).cls = s.cls := rfl
@[simp] theorem setSt_id (st : RxState) (s : State) : (setSt st s).id = s.id := rfl
@[simp] theorem setSt_len (st : RxState) (s : State) : (setSt st s).len = s.len := rfl
@[simp] theorem setSt_cnt (st : RxState) (s : State) : (setSt st s).cnt = s.cnt := rfl
@[simp] theorem setSt_ckA (st : RxState) (s : State) : (setSt st s).ckA = s.ckA := rfl
@[simp] theorem setSt_ckB (st : RxState) (s : State) : (setSt st s).ckB = s.ckB := rfl
@[simp] theorem setSt_rxCkA (st : RxState) (s : State) : (setSt st s).rxCkA = s.rxCkA := rfl
@[simp] theorem setSt_buf (st : RxState) (s : State) : (setSt st s).buf = s.buf := rfl
@[simp] theorem setSt_input (st : RxState) (s : State) : (setSt st s).input = s.input := rfl
@[simp] theorem setSt_rxEvent (st : RxState) (s : State) : (setSt st s).rxEvent = s.rxEvent := rfl
@[simp] theorem setSt_txResult (st : RxState) (s : State) : (setSt st s).txResult = s.txResult := rfl
@[simp] theorem setSt_txStream (st : RxState) (s : State) : (setSt st s).txStream = s.txStream := rfl
@[simp] theorem setSt_readData (st : RxState) (s : State) : (setSt st s).readData = s.readData := rfl
@[simp] theorem setSt_freeCount (st : RxState) (s : State) : (setSt st s).freeCount = s.freeCount := rfl

@[simp] theorem emit_st (e : Event) (s : State) : (emit e s).st = s.st := rfl
@[simp] theorem emit_cls (e : Event) (s : State) : (emit e s).cls = s.cls := rfl
@[simp] theorem emit_id (e : Event) (s : State) : (emit e s).id = s.id := rfl
@[simp] theorem emit_len (e : Event) (s : State) : (emit e s).len = s.len := rfl
@[simp] theorem emit_cnt (e : Event) (s : State) : (emit e s).cnt = s.cnt := rfl
@[simp] theorem emit_ckA (e : Event) (s : State) : (emit e s).ckA = s.ckA := rfl
@[simp] theorem emit_ckB (e : Event) (s : State) : (emit e s).ckB = s.ckB := rfl
@[simp] theorem emit_rxCkA (e : Event) (s : State) : (emit e s).rxCkA = s.rxCkA := rfl
@[simp] theorem emit_buf (e : Event) (s : State) : (emit e s).buf = s.buf := rfl
@[simp] theorem emit_input (e : Event) (s : State) : (emit e s).input = s.input := rfl
@[simp] theorem emit_rxEvent (e : Event) (s : State) : (emit e s).rxEvent = some e := rfl
@[simp] theorem emit_txResult (e : Event) (s : State) : (emit e s).txResult = s.txResult := rfl
@[simp] theorem emit_txStream (e : Event) (s : State) : (emit e s).txStream = s.txStream := rfl
@[simp] theorem emit_readData (e : Event) (s : State) : (emit e s).readData = s.readData := rfl
@[simp] theorem emit_freeCount (e : Event) (s : State) : (emit e s).freeCount = s.freeCount := rfl

@[simp] theorem acc_st (b : Byte) (s : State) : (acc b s).st = s.st := rfl
@[simp] theorem acc_cls (b : Byte) (s : State) : (acc b s).cls = s.cls := rfl
@[simp] theorem acc_id (b : Byte) (s : State) : (acc b s).id = s.id := rfl
@[simp] theorem acc_len (b : Byte) (s : State) : (acc b s).len = s.len := rfl
@[simp] theorem acc_cnt (b : Byte) (s : State) : (acc b s).cnt = s.cnt := rfl
@[simp] theorem acc_ckA (b : Byte) (s : State) : (acc b s).ckA = s.ckA + b := rfl
@[simp] theorem acc_ckB (b : Byte) (s : State) : (acc b s).ckB = s.ckB + (s.ckA + b) := rfl
@[simp] theorem acc_rxCkA (b : Byte) (s : State) : (acc b s).rxCkA = s.rxCkA := rfl
@[simp] theorem acc_buf (b : Byte) (s : State) : (acc b s).buf = s.buf := rfl
@[simp] theorem acc_input (b : Byte) (s : State) : (acc b s).input = s.input := rfl
@[simp] theorem acc_rxEvent (b : Byte) (s : State) : (acc b s).rxEvent = s.rxEvent := rfl
@[simp] theorem acc_txResult (b : Byte) (s : State) : (acc b s).txResult = s.txResult := rfl
@[simp] theorem acc_txStream (b : Byte) (s : State) : (acc b s).txStream = s.txStream := rfl
@[simp] theorem acc_readData (b : Byte) (s : State) : (acc b s).readData = s.readData := rfl
@[simp] theorem acc_freeCount (b : Byte) (s : State) : (acc b s).freeCount = s.freeCount := rfl

@[simp] theorem idle_st (s : State) : (idle s).st = .seekSync1 := rfl
@[simp] theorem idle_cls (s : State) : (idle s).cls = 0 := rfl
@[simp] theorem idle_id (s : State) : (idle s).id = 0 := rfl
@[simp] theorem idle_len (s : State) : (idle s).len = 0 := rfl
@[simp] theorem idle_cnt (s : State) : (idle s).cnt = 0 := rfl
@[simp] theorem idle_ckA (s : State) : (idle s).ckA = 0 := rfl
@[simp] theorem idle_ckB (s : State) : (idle s).ckB = 0 := rfl
@[simp] theorem idle_rxCkA (s : State) : (idle s).rxCkA = 0 := rfl
@[simp] theorem idle_buf (s : State) : (idle s).buf = s.buf := rfl
@[simp] theorem idle_input (s : State) : (idle s).input = s.input := rfl
@[simp] theorem idle_rxEvent (s : State) : (idle s).rxEvent = s.rxEvent := rfl
@[simp] theorem idle_txResult (s : State) : (idle s).txResult = s.txResult := rfl
@[simp] theorem idle_txStream (s : State) : (idle s).txStream = s.txStream := rfl
@[simp] theorem idle_readData (s : State) : (idle s).readData = s.readData := rfl
@[simp] theorem idle_freeCount (s : State) : (idle s).freeCount = s.freeCount := rfl

@[simp] theorem syncCheck_st (cfg : Config) (b : Byte) (s : State) : (syncCheck cfg b s).st = if b == cfg.sync1 then .seekSync2 else .seekSync1 := rfl
@[simp] theorem syncCheck_cls (cfg : Config) (b : Byte) (s : State) : (syncCheck cfg b s).cls = s.cls := rfl
@[simp] theorem syncCheck_id (cfg : Config) (b : Byte) (s : State) : (syncCheck cfg b s).id = s.id := rfl
@[simp] theorem syncCheck_len (cfg : Config) (b : Byte) (s : State) : (syncCheck cfg b s).len = s.len := rfl
@[simp] theorem syncCheck_cnt (cfg : Config) (b : Byte) (s : State) : (syncCheck cfg b s).cnt = s.cnt := rfl
@[simp] theorem syncCheck_ckA (cfg : Config) (b : Byte) (s : State) : (syncCheck cfg b s).ckA = s.ckA := rfl
@[simp] theorem syncCheck_ckB (cfg : Config) (b : Byte) (s : State) : (syncCheck cfg b s).ckB = s.ckB := rfl
@[simp] theorem syncCheck_rxCkA (cfg : Config) (b : Byte) (s : State) : (syncCheck cfg b s).rxCkA = s.rxCkA := rfl
@[simp] theorem syncCheck_buf (cfg : Config) (b : Byte) (s : State) : (syncCheck cfg b s).buf = s.buf := rfl
@[simp] theorem syncCheck_input (cfg : Config) (b : Byte) (s : State) : (syncCheck cfg b s).input = s.input := rfl
@[simp] theorem syncCheck_rxEvent (cfg : Config) (b : Byte) (s : State) : (syncCheck cfg b s).rxEvent = s.rxEvent := rfl
@[simp] theorem syncCheck_txResult (cfg : Config) (b : Byte) (s : State) : (syncCheck cfg b s).txResult = s.txResult := rfl
@[simp] theorem syncCheck_txStream (cfg : Config) (b : Byte) (s : State) : (syncCheck cfg b s).txStream = s.txStream := rfl
@[simp] theorem syncCheck_readData (cfg : Config) (b : Byte) (s : State) : (syncCheck cfg b s).readData = s.readData := rfl
@[simp] theorem syncCheck_freeCount (cfg : Config) (b : Byte) (s : State) : (syncCheck cfg b s).freeCount = s.freeCount := rfl

@[simp] theorem txReport_st (r : TxResult) (s : State) : (txReport r s).st = s.st := rfl
@[simp] theorem txReport_cls (r : TxResult) (s : State) : (txReport r s).cls = s.cls := rfl
@[simp] theorem txReport_id (r : TxResult) (s : State) : (txReport r s).id = s.id := rfl
@[simp] theorem txReport_len (r : TxResult) (s : State) : (txReport r s).len = s.len := rfl
@[simp] theorem txReport_cnt (r : TxResult) (s : State) : (txReport r s).cnt = s.cnt := rfl
@[simp] theorem txReport_ckA (r : TxResult) (s : State) : (txReport r s).ckA = s.ckA := rfl
@[simp] theorem txReport_ckB (r : TxResult) (s : State) : (txReport r s).ckB = s.ckB := rfl
@[simp] theorem txReport_rxCkA (r : TxResult) (s : State) : (txReport r s).rxCkA = s.rxCkA := rfl
@[simp] theorem txReport_buf (r : TxResult) (s : State) : (txReport r s).buf = s.buf := rfl
@[simp] theorem txReport_input (r : TxResult) (s : State) : (txReport r s).input = s.input := rfl
@[simp] theorem txReport_rxEvent (r : TxResult) (s : State) : (txReport r s).rxEvent = s.rxEvent := rfl
@[simp] theorem txReport_txResult (r : TxResult) (s : State) : (txReport r s).txResult = some r := rfl
@[simp] theorem txReport_txStream (r : TxResult) (s : State) : (txReport r s).txStream = s.txStream ++ r.bytes := rfl
@[simp] theorem txReport_readData (r : TxResult) (s : State) : (txReport r s).readData = s.readData := rfl
@[simp] theorem txReport_freeCount (r : TxResult) (s : State) : (txReport r s).freeCount = s.freeCount := rfl

@[simp] theorem applyReset_st (s : State) : (applyReset s).st = .seekSync1 := rfl
@[simp] theorem applyReset_cls (s : State) : (applyReset s).cls = 0 := rfl
@[simp] theorem applyReset_id (s : State) : (applyReset s).id = 0 := rfl
@[simp] theorem applyReset_len (s : State) : (applyReset s).len = 0 := rfl
@[simp] theorem applyReset_cnt (s : State) : (applyReset s).cnt = 0 := rfl
@[simp] theorem applyReset_ckA (s : State) : (applyReset s).ckA = 0 := rfl
@[simp] theorem applyReset_ckB (s : State) : (applyReset s).ckB = 0 := rfl
@[simp] theorem applyReset_rxCkA (s : State) : (applyReset s).rxCkA = 0 := rfl
@[simp] theorem applyReset_buf (s : State) : (applyReset s).buf = s.buf := rfl
@[simp] theorem applyReset_input (s : State) : (applyReset s).input = s.input := rfl
@[simp] theorem applyReset_rxEvent (s : State) : (applyReset s).rxEvent = none := rfl
@[simp] theorem applyReset_txResult (s : State) : (applyReset s).txResult = s.txResult := rfl
@[simp] theorem applyReset_txStream (s : State) : (applyReset s).txStream = s.txStream := rfl
@[simp] theorem applyReset_readData (s : State) : (applyReset s).readData = s.readData := rfl
@[simp] theorem applyReset_freeCount (s : State) : (applyReset s).freeCount = s.freeCount := rfl

@[simp] theorem present_st (m : HostMove) (s : State) : (present m s).st = s.st := rfl
@[simp] theorem present_cls (m : HostMove) (s : State) : (present m s).cls = s.cls := rfl
@[simp] theorem present_id (m : HostMove) (s : State) : (present m s).id = s.id := rfl
@[simp] theorem present_len (m : HostMove) (s : State) : (present m s).len = s.len := rfl
@[simp] theorem present_cnt (m : HostMove) (s : State) : (present m s).cnt = s.cnt := rfl
@[simp] theorem present_ckA (m : HostMove) (s : State) : (present m s).ckA = s.ckA := rfl
@[simp] theorem present_ckB (m : HostMove) (s : State) : (present m s).ckB = s.ckB := rfl
@[simp] theorem present_rxCkA (m : HostMove) (s : State) : (present m s).rxCkA = s.rxCkA := rfl
@[simp] theorem present_buf (m : HostMove) (s : State) : (present m s).buf = s.buf := rfl
@[simp] theorem present_input (m : HostMove) (s : State) : (present m s).input = m :: s.input := rfl
@[simp] theorem present_rxEvent (m : HostMove) (s : State) : (present m s).rxEvent = s.rxEvent := rfl
@[simp] theorem present_txResult (m : HostMove) (s : State) : (present m s).txResult = s.txResult := rfl
@[simp] theorem present_txStream (m : HostMove) (s : State) : (present m s).txStream = s.txStream := rfl
@[simp] theorem present_readData (m : HostMove) (s : State) : (present m s).readData = s.readData := rfl
@[simp] theorem present_freeCount (m : HostMove) (s : State) : (present m s).freeCount = s.freeCount := rfl

@[simp] theorem consumerRead_st (i : Nat) (s : State) : (consumerRead i s).st = s.st := rfl
@[simp] theorem consumerRead_cls (i : Nat) (s : State) : (consumerRead i s).cls = s.cls := rfl
@[simp] theorem consumerRead_id (i : Nat) (s : State) : (consumerRead i s).id = s.id := rfl
@[simp] theorem consumerRead_len (i : Nat) (s : State) : (consumerRead i s).len = s.len := rfl
@[simp] theorem consumerRead_cnt (i : Nat) (s : State) : (consumerRead i s).cnt = s.cnt := rfl
@[simp] theorem consumerRead_ckA (i : Nat) (s : State) : (consumerRead i s).ckA = s.ckA := rfl
@[simp] theorem consumerRead_ckB (i : Nat) (s : State) : (consumerRead i s).ckB = s.ckB := rfl
@[simp] theorem consumerRead_rxCkA (i : Nat) (s : State) : (consumerRead i s).rxCkA = s.rxCkA := rfl
@[simp] theorem consumerRead_buf (i : Nat) (s : State) : (consumerRead i s).buf = s.buf := rfl
@[simp] theorem consumerRead_input (i : Nat) (s : State) : (consumerRead i s).input = s.input := rfl
@[simp] theorem consumerRead_rxEvent (i : Nat) (s : State) : (consumerRead i s).rxEvent = s.rxEvent := rfl
@[simp] theorem consumerRead_txResult (i : Nat) (s : State) : (consumerRead i s).txResult = s.txResult := rfl
@[simp] theorem consumerRead_txStream (i : Nat) (s : State) : (consumerRead i s).txStream = s.txStream := rfl
@[simp] theorem consumerRead_readData (i : Nat) (s : State) : (consumerRead i s).readData =
    some (if i < windowLength s then bufByte s.buf i else Config.freeByte s.freeCount) := rfl
@[simp] theorem consumerRead_freeCount (i : Nat) (s : State) : (consumerRead i s).freeCount = s.freeCount + 1 := rfl

end Sys2Proof.Machine
end

