-- ==== Sys2Proof/Laws/Memory.lean ====
section
/-! SUPPORT. The laws of the payload buffer: read after write, the canonical form, and the payload view. -/

namespace Sys2Proof.Machine

@[simp] theorem Memory.read_nil (a : Nat) : Memory.read [] a = none := rfl

theorem Memory.read_cons (b : Nat) (w : Byte) (m : List Host.Cell) (a : Nat) :
    Memory.read ((b, w) :: m) a = if a = b then some w else Memory.read m a := by
  simp only [Memory.read, List.lookup_cons]
  by_cases h : a = b
  · simp [h]
  · simp [h, beq_eq_false_iff_ne.2 h]

@[simp] theorem Memory.read_write_same (m : List Host.Cell) (a : Nat) (v : Byte) :
    Memory.read (Memory.write m a v) a = some v := by
  induction m with
  | nil => simp [Memory.write, Memory.read_cons]
  | cons c m ih =>
    obtain ⟨b, w⟩ := c
    unfold Memory.write
    split
    · simp [Memory.read_cons]
    · split
      · simp [Memory.read_cons]
      · rename_i _ hne
        simp [Memory.read_cons, hne, ih]

theorem Memory.read_write_other (m : List Host.Cell) {a c : Nat} (v : Byte) (h : c ≠ a) :
    Memory.read (Memory.write m a v) c = Memory.read m c := by
  induction m with
  | nil => simp [Memory.write, Memory.read_cons, h]
  | cons d m ih =>
    obtain ⟨b, w⟩ := d
    unfold Memory.write
    split
    · simp [Memory.read_cons, h]
    · split
      · rename_i _ he
        subst he
        simp [Memory.read_cons, h]
      · simp [Memory.read_cons, ih]

/-- A written memory holds the written cell and cells it held before. -/
theorem Memory.mem_write {m : List Host.Cell} {a : Nat} {v : Byte} {c : Host.Cell} (h : c ∈ Memory.write m a v) :
    c = (a, v) ∨ c ∈ m := by
  induction m with
  | nil => simpa [Memory.write] using h
  | cons d m ih =>
    obtain ⟨b, w⟩ := d
    unfold Memory.write at h
    split at h
    · simpa using h
    · split at h
      · rcases List.mem_cons.1 h with h | h
        · exact .inl h
        · exact .inr (List.mem_cons_of_mem _ h)
      · rcases List.mem_cons.1 h with h | h
        · exact .inr (h ▸ List.mem_cons_self)
        · exact (ih h).imp id (List.mem_cons_of_mem _)

/-- The one memory operation keeps the canonical form. -/
theorem Memory.write_wf {m : List Host.Cell} (a : Nat) (v : Byte) (h : Memory.wf m) : Memory.wf (Memory.write m a v) := by
  induction m with
  | nil => simp [Memory.wf, Memory.write]
  | cons d m ih =>
    obtain ⟨b, w⟩ := d
    obtain ⟨hd, hm⟩ := List.pairwise_cons.1 h
    unfold Memory.write
    split
    · rename_i hlt
      refine List.pairwise_cons.2 ⟨fun c hc => ?_, h⟩
      rcases List.mem_cons.1 hc with hc | hc
      · exact hc ▸ hlt
      · exact Nat.lt_trans hlt (hd c hc)
    · split
      · rename_i _ he
        subst he
        exact List.pairwise_cons.2 ⟨hd, hm⟩
      · rename_i hlt hne
        refine List.pairwise_cons.2 ⟨fun c hc => ?_, ih hm⟩
        rcases Memory.mem_write hc with hc | hc
        · subst hc
          exact Nat.lt_of_le_of_ne (Nat.le_of_not_lt hlt) (Ne.symm hne)
        · exact hd c hc

theorem reset_buf_wf : Memory.wf State.reset.buf := List.Pairwise.nil

theorem bufByte_write (m : List Host.Cell) (a i : Nat) (v : Byte) :
    bufByte (Memory.write m a v) i = if i = a then v else bufByte m i := by
  by_cases h : i = a
  · simp [bufByte, h]
  · simp [bufByte, h, Memory.read_write_other]

@[simp] theorem payloadView_length (m : List Host.Cell) (n : U16) : (payloadView m n).length = n.toNat := by
  simp [payloadView]

@[simp] theorem payloadView_zero (m : List Host.Cell) : payloadView m 0#16 = [] := rfl

theorem payloadView_getElem? (m : List Host.Cell) (n : U16) {k : Nat} (h : k < n.toNat) :
    (payloadView m n)[k]? = some (bufByte m k) := by
  simp [payloadView, h]

/-- Storing the next payload byte extends the view by it. -/
theorem payloadView_write_succ (m : List Host.Cell) (n : U16) (v : Byte) (h : n.toNat < 65535) :
    payloadView (Memory.write m n.toNat v) (n + 1) = payloadView m n ++ [v] := by
  have hn : (n + 1).toNat = n.toNat + 1 := by
    rw [BitVec.toNat_add]
    simp
    omega
  simp only [payloadView, hn, List.range_succ, List.map_append, List.map_cons, List.map_nil, bufByte_write, if_true]
  congr 1
  refine List.map_congr_left (fun k hk => ?_)
  have : k ≠ n.toNat := Nat.ne_of_lt (List.mem_range.1 hk)
  rw [bufByte_write, if_neg this]

end Sys2Proof.Machine
end

