-- ==== Sys2Proof/Laws/Ops.lean ====
section
/-! SUPPORT. What each shared operation can do, said once. -/

namespace Sys2Proof.Machine

theorem bufWrite_inside {cfg : Config} {i : Nat} (v : Byte) (s : State) (h : i < cfg.pCap.val) :
    bufWrite cfg i v s = .next { s with buf := Memory.write s.buf i v } := by simp [bufWrite, h]

theorem bufWrite_outside {cfg : Config} {i : Nat} (v : Byte) (s : State) (h : cfg.pCap.val ≤ i) :
    bufWrite cfg i v s = .fault .bufferIndexOutOfRange := by simp [bufWrite, Nat.not_lt.2 h]

/-- A `BufWrite` that answers a next state wrote one byte inside the buffer. -/
theorem bufWrite_next {cfg : Config} {i : Nat} {v : Byte} {s t : State} (h : bufWrite cfg i v s = .next t) :
    i < cfg.pCap.val ∧ t = { s with buf := Memory.write s.buf i v } := by
  unfold bufWrite at h
  split at h
  · exact ⟨‹_›, by simpa using h.symm⟩
  · cases h

/-- A sequence that answers a next state passed through one. -/
theorem andThen_next {o : Host.Outcome State Fault Refusal} {k : State → Host.Outcome State Fault Refusal} {t : State}
    (h : andThen o k = .next t) : ∃ u, o = .next u ∧ k u = .next t := by
  cases o with
  | next u => exact ⟨u, rfl, h⟩
  | fault f => cases h
  | refused r => cases h

/-- The recovery clears every register and looks at the current byte once more if the configuration says so. -/
theorem rejectRecover_eq (cfg : Config) (b : Byte) (s : State) :
    rejectRecover cfg b s =
      { idle s with st := if cfg.rescanOnReject && b == cfg.sync1 then .seekSync2 else .seekSync1 } := by
  unfold rejectRecover
  cases cfg.rescanOnReject <;> simp [syncCheck, setSt, idle]

/-- Raising a reject: the bare event and the recovery. -/
theorem raiseReject_eq (cfg : Config) (k : EventKind) (b : Byte) (s : State) :
    raiseReject cfg k b s =
      { idle s with
        st := if cfg.rescanOnReject && b == cfg.sync1 then .seekSync2 else .seekSync1, rxEvent := some (.bare k) } := by
  rw [raiseReject, rejectRecover_eq]
  rfl

@[simp] theorem demux_evCls (r : Registry) (c i : Byte) (n : U16) (p : List Byte) : (demux r c i n p).evCls = c := by
  unfold demux
  split
  · rfl
  · split <;> rfl

@[simp] theorem demux_evId (r : Registry) (c i : Byte) (n : U16) (p : List Byte) : (demux r c i n p).evId = i := by
  unfold demux
  split
  · rfl
  · split <;> rfl

@[simp] theorem demux_evLen (r : Registry) (c i : Byte) (n : U16) (p : List Byte) : (demux r c i n p).evLen = n := by
  unfold demux
  split
  · rfl
  · split <;> rfl

/-- The demultiplexer answers one of its three events. -/
theorem demux_kind (r : Registry) (c i : Byte) (n : U16) (p : List Byte) :
    (demux r c i n p).kind ∈ [EventKind.deliver, .unrecognized, .lengthMismatch] := by
  unfold demux
  split
  · simp
  · split <;> simp

/-- A payload the demultiplexer offers is the one it was given. -/
theorem demux_payload {r : Registry} {c i : Byte} {n : U16} {p q : List Byte} (h : (demux r c i n p).payload = some q) :
    q = p := by
  unfold demux at h
  split at h
  · simpa using h.symm
  · split at h
    · simpa using h.symm
    · cases h

end Sys2Proof.Machine
end

