-- ==== Sys2Proof/Laws/PerInstr.lean ====
section
/-! SUPPORT. A family of statements over all instructions: the encoding of an instruction lies in its own row of
spec/opcode_table.json, by the row's match and mask. -/

namespace Sys2Proof.Laws

/-- A command word lies in a CMD10 row. -/
def InCommandRow (i : Instr) (pattern mask : CmdWord) : Prop :=
  ∃ w, encode block i = some (.cmd10 w) ∧ w &&& mask = pattern

/-- A key lies in a KEY14 row. -/
def InKeyRow (i : Instr) (pattern mask : Key) : Prop :=
  ∃ k, encode block i = some (.key14 k) ∧ k &&& mask = pattern

/-- What the table says of an instruction's encoding. -/
def TableRow.Statement (i : Instr) : Prop :=
  match i with
  | .push _ => InCommandRow i 0x000 0x300
  | .flush _ => InCommandRow i 0x100 0x300
  | .reserved _ => i.wellFormed block = true → InCommandRow i 0x200 0x200
  | .pushSeekSync1Sync => InKeyRow i 0x00B5 0x3FFF
  | .pushSeekSync1Other _ => InKeyRow i 0x0000 0x3F00
  | .pushSeekSync2Sync => InKeyRow i 0x0462 0x3FFF
  | .pushSeekSync2Other _ => InKeyRow i 0x0400 0x3F00
  | .pushReadClass _ => InKeyRow i 0x0800 0x3F00
  | .pushReadId _ => InKeyRow i 0x0C00 0x3F00
  | .pushReadLenLow _ => InKeyRow i 0x1000 0x3F00
  | .pushReadLenHigh _ => InKeyRow i 0x1400 0x3F00
  | .pushReadPayload _ => InKeyRow i 0x1800 0x3F00
  | .pushReadChecksumA _ => InKeyRow i 0x1C00 0x3F00
  | .pushReadChecksumB _ => InKeyRow i 0x2000 0x3F00
  | .txFrame c m p => p.length ≤ 65535 →
      ∃ bytes, encode block i = some (.txn bytes) ∧ bytes.take 4 = [0xB5, 0x62, c, m] ∧ bytes.length = p.length + 8

theorem TableRow.push (b : Byte) : TableRow.Statement (.push b) := ⟨_, rfl, by revert b; decide⟩
theorem TableRow.flush (data : Byte) : TableRow.Statement (.flush data) := ⟨_, rfl, by revert data; decide⟩
theorem TableRow.reserved (w : CmdWord) : TableRow.Statement (.reserved w) := fun h => ⟨w, rfl, by
  apply BitVec.eq_of_getLsbD_eq
  intro i hi
  rw [BitVec.getLsbD_and]
  interval_cases i <;> simp_all [Instr.wellFormed]⟩
theorem TableRow.pushSeekSync1Sync : TableRow.Statement .pushSeekSync1Sync := ⟨_, rfl, rfl⟩
theorem TableRow.pushSeekSync1Other (b : Byte) : TableRow.Statement (.pushSeekSync1Other b) := ⟨_, rfl, key_mask_data 0 0 b⟩
theorem TableRow.pushSeekSync2Sync : TableRow.Statement .pushSeekSync2Sync := ⟨_, rfl, rfl⟩
theorem TableRow.pushSeekSync2Other (b : Byte) : TableRow.Statement (.pushSeekSync2Other b) := ⟨_, rfl, key_mask_data 1 0 b⟩
theorem TableRow.pushReadClass (b : Byte) : TableRow.Statement (.pushReadClass b) := ⟨_, rfl, key_mask_data 2 0 b⟩
theorem TableRow.pushReadId (b : Byte) : TableRow.Statement (.pushReadId b) := ⟨_, rfl, key_mask_data 3 0 b⟩
theorem TableRow.pushReadLenLow (b : Byte) : TableRow.Statement (.pushReadLenLow b) := ⟨_, rfl, key_mask_data 4 0 b⟩
theorem TableRow.pushReadLenHigh (b : Byte) : TableRow.Statement (.pushReadLenHigh b) := ⟨_, rfl, key_mask_data 5 0 b⟩
theorem TableRow.pushReadPayload (b : Byte) : TableRow.Statement (.pushReadPayload b) := ⟨_, rfl, key_mask_data 6 0 b⟩
theorem TableRow.pushReadChecksumA (b : Byte) : TableRow.Statement (.pushReadChecksumA b) := ⟨_, rfl, key_mask_data 7 0 b⟩
theorem TableRow.pushReadChecksumB (b : Byte) : TableRow.Statement (.pushReadChecksumB b) := ⟨_, rfl, key_mask_data 8 0 b⟩
theorem TableRow.txFrame (c i : Byte) (p : List Byte) : TableRow.Statement (.txFrame c i p) := fun h =>
  ⟨frame block c i p, if_pos h, rfl, by simp [frame, coveredBytes, frameHeader]⟩

end Sys2Proof.Laws
end

