-- ==== Sys2Proof/Laws/Push.lean ====
section
/-! SUPPORT. The stages of `PUSH` as records, and when a `PUSH` completes. -/

namespace Sys2Proof.Machine

/-- The length bytes of R87 as a number. -/
theorem lenWithHigh_toNat (b : Byte) (len : U16) : (lenWithHigh b len).toNat = len.toNat % 256 + 256 * b.toNat := by
  rw [lenWithHigh, u16OfBytes_toNat, lowByte_toNat]

/-- The end of R87 as one record. -/
theorem lengthStage_eq (cfg : Config) (b : Byte) (s : State) :
    lengthStage cfg b s =
      if cfg.pCap.val < s.len.toNat then
        { idle s with st := rejectState cfg b, rxEvent := some (.bare .rejectOversize) }
      else { s with st := if s.len = 0 then .readChecksumA else .readPayload, rxEvent := some Event.silent } := by
  simp only [lengthStage, oversize, raiseReject_eq, rejectState, Bool.and_eq_true, beq_iff_eq, decide_eq_true_eq]
  split
  · rfl
  · split <;> rfl

/-- The end of R88 as one record. -/
theorem payloadStage_eq (b : Byte) (s : State) :
    payloadStage b s =
      { s with cnt := s.cnt + 1, ckA := s.ckA + b, ckB := s.ckB + (s.ckA + b),
               st := if s.cnt + 1 = s.len then .readChecksumA else s.st, rxEvent := some Event.silent } := by
  simp only [payloadStage, acc, beq_iff_eq]
  split
  · rfl
  · rfl

/-- R88 with an index inside the buffer. -/
theorem pushReadPayload_inside {cfg : Config} (b : Byte) {s : State} (h : s.cnt.toNat < cfg.pCap.val) :
    pushReadPayload cfg b s = .next (payloadStage b { s with buf := Memory.write s.buf s.cnt.toNat b }) := by
  rw [pushReadPayload, bufWrite_inside b s h]
  rfl

/-- R88 that answers a next state had an index inside the buffer. -/
theorem pushReadPayload_next {cfg : Config} {b : Byte} {s t : State} (h : pushReadPayload cfg b s = .next t) :
    s.cnt.toNat < cfg.pCap.val ∧ t = payloadStage b { s with buf := Memory.write s.buf s.cnt.toNat b } := by
  obtain ⟨u, hu, ht⟩ := andThen_next h
  obtain ⟨hi, rfl⟩ := bufWrite_next hu
  exact ⟨hi, by simpa using ht.symm⟩

/-- The end of R90 on a mismatch as one record. -/
theorem rejectChecksum_eq (cfg : Config) (b : Byte) (s : State) :
    raiseReject cfg .rejectChecksum b s =
      { idle s with st := rejectState cfg b, rxEvent := some (.bare .rejectChecksum) } := by
  simp only [raiseReject_eq, rejectState, Bool.and_eq_true, beq_iff_eq]

theorem checksumMatches_iff (b : Byte) (s : State) : checksumMatches b s = true ↔ s.rxCkA = s.ckA ∧ b = s.ckB := by
  simp [checksumMatches]

/-- R83 as one record on either branch. -/
theorem pushSeekSync2_eq (cfg : Config) (b : Byte) (s : State) :
    pushSeekSync2 cfg b s = .next (
      if b = cfg.sync2 then { s with st := .readClass, ckA := 0, ckB := 0, cnt := 0, rxEvent := some Event.silent }
      else { s with st := if b = cfg.sync1 then .seekSync2 else .seekSync1, rxEvent := some Event.silent }) := by
  simp only [pushSeekSync2, syncCheck, beq_iff_eq]
  split <;> rfl

/-- Everything a `PUSH` that answers a next state can do, by the rows of R92. -/
theorem push_cases {cfg : Config} {b : Byte} {s t : State} (h : push cfg b s = .next t) :
    (s.st = .seekSync1 ∧
      t = { s with st := if b = cfg.sync1 then .seekSync2 else .seekSync1, rxEvent := some Event.silent }) ∨
    (s.st = .seekSync2 ∧ b = cfg.sync2 ∧
      t = { s with st := .readClass, ckA := 0, ckB := 0, cnt := 0, rxEvent := some Event.silent }) ∨
    (s.st = .seekSync2 ∧ b ≠ cfg.sync2 ∧
      t = { s with st := if b = cfg.sync1 then .seekSync2 else .seekSync1, rxEvent := some Event.silent }) ∨
    (s.st = .readClass ∧
      t = { s with cls := b, ckA := s.ckA + b, ckB := s.ckB + (s.ckA + b), st := .readId, rxEvent := some Event.silent }) ∨
    (s.st = .readId ∧
      t = { s with id := b, ckA := s.ckA + b, ckB := s.ckB + (s.ckA + b), st := .readLenLow,
                   rxEvent := some Event.silent }) ∨
    (s.st = .readLenLow ∧
      t = { s with len := lenOfLow b, ckA := s.ckA + b, ckB := s.ckB + (s.ckA + b), st := .readLenHigh,
                   rxEvent := some Event.silent }) ∨
    (s.st = .readLenHigh ∧ cfg.pCap.val < (lenWithHigh b s.len).toNat ∧
      t = { idle s with st := rejectState cfg b, rxEvent := some (.bare .rejectOversize) }) ∨
    (s.st = .readLenHigh ∧ (lenWithHigh b s.len).toNat ≤ cfg.pCap.val ∧
      t = { s with len := lenWithHigh b s.len, ckA := s.ckA + b, ckB := s.ckB + (s.ckA + b),
                   st := if lenWithHigh b s.len = 0 then .readChecksumA else .readPayload,
                   rxEvent := some Event.silent }) ∨
    (s.st = .readPayload ∧ s.cnt.toNat < cfg.pCap.val ∧
      t = { s with buf := Memory.write s.buf s.cnt.toNat b, cnt := s.cnt + 1, ckA := s.ckA + b,
                   ckB := s.ckB + (s.ckA + b), st := if s.cnt + 1 = s.len then .readChecksumA else .readPayload,
                   rxEvent := some Event.silent }) ∨
    (s.st = .readChecksumA ∧ t = { s with rxCkA := b, st := .readChecksumB, rxEvent := some Event.silent }) ∨
    (s.st = .readChecksumB ∧ (s.rxCkA = s.ckA ∧ b = s.ckB) ∧ t = { idle s with rxEvent := some (acceptEvent cfg s) }) ∨
    (s.st = .readChecksumB ∧ ¬ (s.rxCkA = s.ckA ∧ b = s.ckB) ∧
      t = { idle s with st := rejectState cfg b, rxEvent := some (.bare .rejectChecksum) }) := by
  unfold push at h
  cases hst : s.st <;> rw [hst] at h <;> simp only [reduceCtorEq, false_and, true_and, false_or, or_false] <;>
    dsimp only at h
  · injection h with h
    subst h
    simp [syncCheck, setSt, emit]
  · rw [pushSeekSync2_eq] at h
    injection h with h
    split at h <;> subst h <;> simp_all
  · injection h with h
    exact h.symm
  · injection h with h
    exact h.symm
  · injection h with h
    exact h.symm
  · unfold pushReadLenHigh at h
    injection h with h
    rw [lengthStage_eq] at h
    by_cases hh : cfg.pCap.val < (acc b { s with len := lenWithHigh b s.len }).len.toNat
    · rw [if_pos hh] at h
      subst h
      exact .inl ⟨hh, rfl⟩
    · rw [if_neg hh] at h
      subst h
      exact .inr ⟨Nat.le_of_not_lt hh, rfl⟩
  · obtain ⟨hi, ht⟩ := pushReadPayload_next h
    refine ⟨hi, ?_⟩
    rw [ht, payloadStage_eq]
    simp [hst]
  · injection h with h
    exact h.symm
  · unfold pushReadChecksumB at h
    injection h with h
    by_cases hh : checksumMatches b s = true
    · rw [if_pos hh] at h
      subst h
      exact .inl ⟨(checksumMatches_iff b s).1 hh, rfl⟩
    · rw [if_neg hh, rejectChecksum_eq] at h
      subst h
      exact .inr ⟨fun x => hh ((checksumMatches_iff b s).2 x), rfl⟩

/-- A `PUSH` completes unless its write index does not exist. -/
theorem push_completes {cfg : Config} (b : Byte) (s : State) (h : s.st = .readPayload → s.cnt.toNat < cfg.pCap.val) :
    ∃ t, push cfg b s = .next t := by
  unfold push
  cases hst : s.st
  case readPayload => exact ⟨_, pushReadPayload_inside b (h hst)⟩
  all_goals exact ⟨_, rfl⟩

/-- One byte of a chunk. -/
theorem feed_cons {cfg : Config} {b : Byte} {s t : State} (bs : List Byte) (h : push cfg b s = .next t) :
    feed cfg (b :: bs) s = (feed cfg bs t).map (fun r => (r.1, t.rxEvent :: r.2)) := by
  simp [feed, h]

end Sys2Proof.Machine
end

