-- ==== Sys2Proof/Tests/Slice0.lean ====
section
/-! SUPPORT. Tests with values from the spec, and one witness for each statement that has hypotheses. The test
configuration is the fixture `TESTREG` of 95_test_vectors.md section 0. -/

namespace Sys2Proof.Tests

open Sys2Proof Sys2Proof.Machine

/-! ## Helpers -/

/-- The registry `TESTREG`. -/
def testRegistry : Registry where
  entries :=
    [ { eCls := 0x01, eId := 0x02, eRule := .fixed 4 },
      { eCls := 0x02, eId := 0x10, eRule := .trailing 2 3 },
      { eCls := 0x05, eId := 0x01, eRule := .fixed 2 } ]
  unique := by decide
  widths := by decide

/-- The sync bytes and the registry of the vectors, with a capacity and a rescan setting. -/
def testConfig (cap : Fin 65536) (rescan : Bool) : Config where
  sync1 := 0xB5
  sync2 := 0x62
  rescanOnReject := rescan
  pCap := cap
  registry := testRegistry

/-- The default parameters of the vectors. -/
def cfg16 : Config := testConfig 16 true

/-- The next state, if there is one. -/
def nextOf (o : Host.Outcome State Fault Refusal) : Option State :=
  match o with
  | .next s => some s
  | .fault _ => none
  | .refused _ => none

/-- The fault, if there is one. -/
def faultOf (o : Host.Outcome State Fault Refusal) : Option Fault :=
  match o with
  | .next _ => none
  | .fault f => some f
  | .refused _ => none

/-- The name of a refusal. -/
def errorOf {ε α : Type} (r : Except ε α) : Option ε :=
  match r with
  | .ok _ => none
  | .error e => some e

/-- The kind of the event a state holds. -/
def kindOf (s : State) : Option EventKind := s.rxEvent.map Event.kind

/-- After the header `01 02 04 00` of the frame of L1.1. -/
def afterHeader : State :=
  { State.reset with st := .readPayload, cls := 0x01, id := 0x02, len := 4, cnt := 0, ckA := 0x07, ckB := 0x12 }

/-- After its payload byte 2 (L1.1, row @7; the truncated input of L2.5). -/
def midPayload : State :=
  { afterHeader with cnt := 2, ckA := 0x08, ckB := 0x22, buf := [(0, 0x01), (1, 0x00)], rxEvent := some Event.silent }

/-- After its first checksum byte (L1.1, row @10). -/
def beforeLast : State :=
  { afterHeader with st := .readChecksumB, cnt := 4, ckA := 0x08, ckB := 0x32, rxCkA := 0x08,
                     buf := [(0, 0x01), (1, 0x00), (2, 0x00), (3, 0x00)], rxEvent := some Event.silent }

/-- The event of its last byte (L1.1). -/
def delivered : Event :=
  { kind := .deliver, evDef := 0, evCls := 0x01, evId := 0x02, evLen := 4, evCount := 0,
    payload := some [0x01, 0x00, 0x00, 0x00] }

/-- After its last byte (L1.1, row @11). -/
def afterLast : State :=
  { State.reset with buf := [(0, 0x01), (1, 0x00), (2, 0x00), (3, 0x00)], rxEvent := some delivered }

/-- `ReadChecksumB` with a matching trailer `00 00` for a class, ID, length and payload bytes. -/
def accepting (c i : Byte) (n : U16) : State :=
  { State.reset with st := .readChecksumB, cls := c, id := i, len := n, cnt := n }

/-! ## Well-formedness (30_encoding.md R66, R69) -/

theorem test_wf_refuses_sync1_as_other : (Instr.pushSeekSync1Other 0xB5).wellFormed block = false := by decide
theorem test_wf_refuses_sync2_as_other : (Instr.pushSeekSync2Other 0x62).wellFormed block = false := by decide
theorem test_wf_refuses_flush_word_as_reserved : (Instr.reserved 0x1FF).wellFormed block = false := by decide
theorem test_wf_accepts_first_reserved_word : (Instr.reserved 0x200).wellFormed block = true := by decide

/-! ## Decoding: words written bit by bit from R65, R66 and R69 (state, selector, data), and a frame of L2.10 -/

theorem test_decode_push : decodeTableWord 10 0b0010110101 = some (.push 0xB5) := by decide
theorem test_decode_flush : decodeTableWord 10 0b0100000100 = some (.flush 0x04) := by decide
theorem test_decode_reserved : decodeTableWord 10 0b1010110101 = some (.reserved 0x2B5) := by decide
theorem test_decode_seek1_sync : decodeTableWord 14 0b00000010110101 = some .pushSeekSync1Sync := by decide
theorem test_decode_seek1_other : decodeTableWord 14 0b00000001100010 = some (.pushSeekSync1Other 0x62) := by decide
theorem test_decode_seek2_sync : decodeTableWord 14 0b00010001100010 = some .pushSeekSync2Sync := by decide
theorem test_decode_seek2_other : decodeTableWord 14 0b00010010110101 = some (.pushSeekSync2Other 0xB5) := by decide
theorem test_decode_read_class : decodeTableWord 14 0b00100000000101 = some (.pushReadClass 0x05) := by decide
theorem test_decode_read_id : decodeTableWord 14 0b00110000000001 = some (.pushReadId 0x01) := by decide
theorem test_decode_len_low : decodeTableWord 14 0b01000010000000 = some (.pushReadLenLow 0x80) := by decide
theorem test_decode_len_high : decodeTableWord 14 0b01010000000001 = some (.pushReadLenHigh 0x01) := by decide
theorem test_decode_payload : decodeTableWord 14 0b01100010101010 = some (.pushReadPayload 0xAA) := by decide
theorem test_decode_checksum_a : decodeTableWord 14 0b01110000001000 = some (.pushReadChecksumA 0x08) := by decide
theorem test_decode_checksum_b : decodeTableWord 14 0b10000000110010 = some (.pushReadChecksumB 0x32) := by decide
theorem test_decode_flush_in_any_state : decodeTableWord 14 0b01100100000000 = some (.flush 0) := by decide
theorem test_decode_tx :
    (decode block (.txn [0xB5, 0x62, 0x05, 0x01, 0x02, 0x00, 0xAA, 0x55, 0x07, 0xD4])).toOption =
      some (.txFrame 0x05 0x01 [0xAA, 0x55]) := by decide
theorem test_decode_tx_table_word : decodeTableWord 64 0x340E0000040A62B5 = some (.txFrame 0x0A 0x04 []) := by decide

theorem test_refuse_state_code_9 : errorOf (decode block (.key14 0b10010000000000)) = some .reservedStateCode := by decide
theorem test_refuse_short_frame : errorOf (decode block (.txn [0xB5, 0x62, 0x0A])) = some .truncatedFrame := by decide
theorem test_refuse_wrong_sync :
    errorOf (decode block (.txn [0xB5, 0x63, 0x0A, 0x04, 0x00, 0x00, 0x0E, 0x34])) = some .noSyncPair := by decide
theorem test_refuse_wrong_length :
    errorOf (decode block (.txn [0xB5, 0x62, 0x0A, 0x04, 0x01, 0x00, 0x0E, 0x34])) = some .wrongFrameLength := by decide
theorem test_refuse_wrong_checksum :
    errorOf (decode block (.txn [0xB5, 0x62, 0x0A, 0x04, 0x00, 0x00, 0x0E, 0x35])) = some .wrongChecksum := by decide

/-! ## The registry ROM and the configuration (R71, 00_scope.md R6, 95_test_vectors.md section 0) -/

theorem test_rom_words_of_testreg :
    (decodeRomImage [0x01020000040000, 0x02108000020003, 0x05010000020000]).toOption = some testRegistry.entries := by decide
theorem test_rom_refuses_reserved_bits : errorOf (decodeRomWord 0x01020100040000) = some .reservedBits := by decide
theorem test_rom_refuses_fixed_with_width : errorOf (decodeRomWord 0x01020000040001) = some .fixedWithWidth := by decide
theorem test_rom_refuses_zero_width : errorOf (decodeRomWord 0x02108000020000) = some .zeroWidth := by decide
theorem test_config_refuses_duplicate_key :
    errorOf (buildConfig { sync1 := 0xB5, sync2 := 0x62, rescanOnReject := true, pCap := 16,
                           romImage := [0x01020000040000, 0x01020000050000] }) = some .duplicateKey := by decide
theorem test_config_refuses_capacity :
    errorOf (buildConfig { sync1 := 0xB5, sync2 := 0x62, rescanOnReject := true, pCap := 65536, romImage := [] }) =
      some .capacityTooLarge := by decide

/-! ## The checksum (L2.1) and the lookup (L2.9) -/

theorem test_ck_scenario : ck [0x01, 0x02, 0x04, 0x00, 0x01, 0x00, 0x00, 0x00] = (0x08, 0x32) := by decide
theorem test_ck_wraps : ck [0xFF, 0xFF] = (0xFE, 0xFD) := by decide
theorem test_lookup_hit : (regLookup testRegistry 0x02 0x10).map Prod.fst = some 1 := by decide
theorem test_lookup_exact_pair : regLookup testRegistry 0x01 0x10 = none := by decide

/-! ## One step of each instruction -/

theorem test_push_reexamines_sync1 :
    (nextOf (exec (.push 0xB5) { State.reset with st := .seekSync2 })).map (·.st) = some .seekSync2 := by decide
theorem test_push_in_len_high_rejects_17 :
    (nextOf (push cfg16 0x00 { State.reset with st := .readLenHigh, cls := 0x0A, id := 0x04, len := 0x11, ckA := 0x1F,
                                                 ckB := 0x3D })).map (fun s => (s.st, kindOf s, s.len)) =
      some (.seekSync1, some .rejectOversize, 0) := by decide
theorem test_flush_mid_frame :
    (nextOf (exec (.flush 0x04) midPayload)).map (fun s => (s.st, s.cnt, s.buf, kindOf s)) =
      some (.seekSync1, 0, [(0, 0x01), (1, 0x00)], some .quiet) := by decide
theorem test_reserved_keeps_the_frame :
    nextOf (exec (.reserved 0x300) { State.reset with st := .readClass }) =
      some { State.reset with st := .readClass, rxEvent := some (.bare .illegalCommand) } := by decide
theorem test_seek1_sync : (nextOf (exec .pushSeekSync1Sync State.reset)).map (·.st) = some .seekSync2 := by decide
theorem test_seek1_other : (nextOf (exec (.pushSeekSync1Other 0x62) State.reset)).map (·.st) = some .seekSync1 := by decide
theorem test_seek2_sync :
    (nextOf (exec .pushSeekSync2Sync { State.reset with st := .seekSync2 })).map (fun s => (s.st, s.ckA, s.ckB, s.cnt)) =
      some (.readClass, 0, 0, 0) := by decide
theorem test_seek2_other :
    (nextOf (exec (.pushSeekSync2Other 0x00) { State.reset with st := .seekSync2 })).map (·.st) = some .seekSync1 := by decide
theorem test_seek2_other_sync1 :
    (nextOf (exec (.pushSeekSync2Other 0xB5) { State.reset with st := .seekSync2 })).map (·.st) = some .seekSync2 := by decide
theorem test_read_class :
    (nextOf (exec (.pushReadClass 0x01) { State.reset with st := .readClass })).map (fun s => (s.st, s.cls, s.ckA, s.ckB)) =
      some (.readId, 0x01, 0x01, 0x01) := by decide
theorem test_read_id :
    (nextOf (exec (.pushReadId 0x02) { State.reset with st := .readId, ckA := 0x01, ckB := 0x01 })).map
      (fun s => (s.st, s.id, s.ckA, s.ckB)) = some (.readLenLow, 0x02, 0x03, 0x04) := by decide
theorem test_read_len_low :
    (nextOf (exec (.pushReadLenLow 0x04) { State.reset with st := .readLenLow, ckA := 0x03, ckB := 0x04 })).map
      (fun s => (s.st, s.len, s.ckA, s.ckB)) = some (.readLenHigh, 0x0004, 0x07, 0x0B) := by decide
theorem test_read_len_high :
    (nextOf (pushReadLenHigh cfg16 0x00 { State.reset with st := .readLenHigh, len := 4, ckA := 0x07, ckB := 0x0B })).map
      (fun s => (s.st, s.len, s.ckA, s.ckB)) = some (.readPayload, 4, 0x07, 0x12) := by decide
theorem test_read_len_high_rescans :
    (nextOf (pushReadLenHigh cfg16 0xB5 { State.reset with st := .readLenHigh, cls := 1, id := 2 })).map
      (fun s => (s.st, s.cls, kindOf s)) = some (.seekSync2, 0, some .rejectOversize) := by decide
theorem test_read_payload_last_byte :
    (nextOf (pushReadPayload cfg16 0x00 { midPayload with cnt := 3, ckA := 0x08, ckB := 0x2A })).map
      (fun s => (s.st, s.cnt, s.ckA, s.ckB, Memory.read s.buf 3)) = some (.readChecksumA, 4, 0x08, 0x32, some 0x00) := by
  decide
theorem test_read_payload_outside :
    faultOf (pushReadPayload cfg16 0x00 { midPayload with cnt := 16 }) = some .bufferIndexOutOfRange := by decide
theorem test_checksum_a :
    (nextOf (exec (.pushReadChecksumA 0x09) { beforeLast with st := .readChecksumA, rxCkA := 0 })).map
      (fun s => (s.st, s.rxCkA, s.ckA, s.ckB)) = some (.readChecksumB, 0x09, 0x08, 0x32) := by decide
theorem test_checksum_b_delivers : nextOf (pushReadChecksumB cfg16 0x32 beforeLast) = some afterLast := by decide
theorem test_checksum_b_rejects :
    (nextOf (pushReadChecksumB cfg16 0x33 beforeLast)).map (fun s => (s.st, s.len, kindOf s)) =
      some (.seekSync1, 0, some .rejectChecksum) := by decide
theorem test_tx_frame :
    (nextOf (exec (.txFrame 0x0A 0x04 [0xB5, 0x62]) { State.reset with txStream := [0x11] })).map
      (fun s => (s.txResult, s.txStream)) =
      some (some (.ok [0xB5, 0x62, 0x0A, 0x04, 0x02, 0x00, 0xB5, 0x62, 0x27, 0x24]),
        [0x11, 0xB5, 0x62, 0x0A, 0x04, 0x02, 0x00, 0xB5, 0x62, 0x27, 0x24]) := by decide
theorem test_tx_too_long (p : List Byte) (h : p.length = 65536) :
    exec (.txFrame 0 0 p) State.reset = .next { State.reset with txResult := some .tooLong } := by
  simp [exec, execTxFrame, txFrame, txOutcome, h, txReport, TxResult.bytes, State.reset]

/-! ## A step, reset and the consumer -/

theorem test_step_runs_table_word :
    (nextOf (step (State.reset.withFetchWord 14 0b00100000000101))).map (fun s => (s.st, s.cls, s.input)) =
      some (.readId, 0x05, []) := by decide
theorem test_step_runs_transaction :
    (nextOf (step (State.reset.withFetchWord 64 0x340E0000040A62B5))).map (fun s => s.txStream) =
      some [0xB5, 0x62, 0x0A, 0x04, 0x00, 0x00, 0x0E, 0x34] := by decide
theorem test_reset_input_discards_command :
    (nextOf (step { midPayload with input := [.rst (some 0x0B5), .rx 0x100] })).map
      (fun s => (s.st, s.cnt, s.rxEvent, s.input)) = some (.seekSync1, 0, none, [.rx 0x100]) := by decide
theorem test_consumer_reads_payload :
    (consumerRead 0 afterLast).readData = some 0x01 := by decide
theorem test_consumer_read_far_outside :
    (nextOf (step { afterLast with input := [.bufRead 65536] })).map (fun s => (s.st, s.rxEvent, s.freeCount)) =
      some (.seekSync1, some delivered, 1) := by decide
theorem test_tx_result_codes : (TxResult.ok [0x11]).code = 0 ∧ TxResult.tooLong.code = 1 := by decide

/-! ## Command lines (30_encoding.md R73, R74) -/

theorem test_line_flush : (parseLine ['f', 'l', 'u', 's', 'h', ' ', ';', 'x']).toOption = some (some .flush) := by decide
theorem test_line_push :
    (parseLine ['p', 'u', 's', 'h', ' ', '0', 'x', 'B', '5']).toOption = some (some (.push 0xB5)) := by decide
theorem test_line_tx :
    (parseLine ['t', 'x', ' ', '1', '0', ',', '4', ',', '[', ']']).toOption = some (some (.tx 0x0A 0x04 [])) := by decide
theorem test_line_cmd_out_of_range :
    errorOf (parseLine ['.', 'c', 'm', 'd', ' ', '1', '0', '2', '4']) = some .outOfRange := by decide
theorem test_badframe : bumpLast [0x0E, 0x34] = [0x0E, 0x35] := by decide

/-! ## States that meet the invariant -/

theorem windowNone {cfg : Config} {m : List Host.Cell} (k : EventKind) :
    ∀ e p, some (Event.bare k) = some e → e.payload = some p → e.evLen.toNat ≤ cfg.pCap.val ∧ p = payloadView m e.evLen := by
  intro e p h hp
  injection h with h
  subst h
  cases hp

/-- A frame in its payload, two bytes stored. -/
theorem midPayload_inv : Inv cfg16 midPayload where
  seeking := by decide
  header := by decide
  fits := by decide
  counting := by decide
  counted := by decide
  sums := by decide
  stored := by decide
  bufForm := by decide
  bufBound := by decide
  window := windowNone .quiet

/-- A frame before its last byte. -/
theorem beforeLast_inv : Inv cfg16 beforeLast where
  seeking := by decide
  header := by decide
  fits := by decide
  counting := by decide
  counted := by decide
  sums := by decide
  stored := by decide
  bufForm := by decide
  bufBound := by decide
  window := windowNone .quiet

/-- A delivered payload on offer. -/
theorem afterLast_inv : Inv cfg16 afterLast where
  seeking := by decide
  header := by decide
  fits := by decide
  counting := by decide
  counted := by decide
  sums := by decide
  stored := by decide
  bufForm := by decide
  bufBound := by decide
  window := by
    intro e p h hp
    have h : delivered = e := by simpa [afterLast] using h
    subst h
    have hp : [0x01, 0x00, 0x00, 0x00] = p := by simpa [delivered] using hp
    subst hp
    decide

/-- The block in `ReadClass`, a byte presented. -/
def classPresented : State := { State.reset with st := .readClass, input := [.rx 0x001] }

theorem classPresented_inv : Inv block classPresented where
  seeking := by decide
  header := by decide
  fits := by intro h; cases h
  counting := by decide
  counted := by decide
  sums := by decide
  stored := by decide
  bufForm := by decide
  bufBound := by intro c h; cases h
  window := by intro e p h; cases h

/-! ## Witnesses: the hypotheses of each statement can be met -/

/-- The first part is met at the test configuration, at index 3 of 16. The second speaks of this block, whose capacity is
open: it is met exactly when the block has a buffer at all. -/
theorem witness_PushReadPayloadResult :
    ({ midPayload with cnt := 3 } : State).cnt.toNat < cfg16.pCap.val ∧
    (0 < block.pCap.val → State.reset.cnt.toNat < block.pCap.val) := ⟨by decide, fun h => h⟩

/-- The last index before the end, and none beyond it. -/
theorem witness_PushReadPayloadResult_boundary :
    ({ midPayload with cnt := 15 } : State).cnt.toNat < cfg16.pCap.val ∧
    ¬ ({ midPayload with cnt := 16 } : State).cnt.toNat < cfg16.pCap.val := by decide

theorem witness_PushReadPayloadOutsideBufferFaults :
    block.pCap.val ≤ ({ midPayload with cnt := 0xFFFF } : State).cnt.toNat := Nat.le_of_lt_succ block.pCap.isLt

theorem witness_PushFollowsTransitionTable :
    State.reset.st = .readPayload → State.reset.cnt.toNat < block.pCap.val := by intro h; cases h

theorem witness_FlushResult :
    (0x100 ≤ (0x100 : CmdWord).toNat ∧ (0x100 : CmdWord).toNat ≤ 0x1FF) ∧
    (0x100 ≤ (0x1FF : CmdWord).toNat ∧ (0x1FF : CmdWord).toNat ≤ 0x1FF) := by decide

theorem witness_ReservedWordResult : 0x200 ≤ (0x200 : CmdWord).toNat ∧ 0x200 ≤ (0x3FF : CmdWord).toNat := by decide

theorem witness_StepRunsDecodedInstruction_rx :
    classPresented.input = .rx 0x001 :: [] ∧ decode block (.key14 (keyOf classPresented.st.code 0x001)) = .ok (.pushReadClass 1) ∧
      (Instr.pushReadClass 1).wellFormed block = true := ⟨rfl, rfl, rfl⟩

theorem witness_StepRunsDecodedInstruction_tx :
    ({ State.reset with input := [.tx 0x0A 0x04 []] } : State).input = .tx 0x0A 0x04 [] :: [] := rfl

theorem witness_StepRunsDecodedInstruction_read :
    ({ State.reset with input := [.bufRead 65536] } : State).input = .bufRead 65536 :: [] := rfl

theorem witness_ResetInputResult :
    ({ midPayload with input := [.rst (some 0x0B5)] } : State).input = .rst (some 0x0B5) :: [] := rfl

theorem witness_NoMoveChangesNothing : midPayload.input = [] := rfl

theorem witness_NoStepStopsFromInvariant : Inv block classPresented := classPresented_inv

theorem witness_StepKeepsInvariant :
    Inv block classPresented ∧ ∃ t, step classPresented = .next t := ⟨classPresented_inv, _, rfl⟩

theorem witness_RxLeavesTxAndPorts :
    isRx (.pushReadClass 1) = true ∧ ∃ t, exec (.pushReadClass 1) classPresented = .next t := ⟨rfl, _, rfl⟩

theorem witness_BufferUnchangedElsewhere :
    (∃ t, exec (.flush 0) midPayload = .next t) ∧ storeIndex (.flush 0) midPayload ≠ some 0 ∧
      storeIndex (.pushReadPayload 0) midPayload ≠ some 1 := ⟨⟨_, rfl⟩, by decide, by decide⟩

theorem witness_StoredPayloadByteReadsBack :
    (∃ t, pushReadPayload cfg16 0xAA midPayload = .next t) ∧ midPayload.st = .readPayload ∧
      ∃ t, push cfg16 0xAA midPayload = .next t := ⟨⟨_, rfl⟩, rfl, _, rfl⟩

theorem witness_RxAndTxCommute :
    isRx (.pushReadClass 1) = true ∧ (∃ a, exec (.pushReadClass 1) classPresented = .next a) ∧
      ∃ b, exec (.txFrame 0x0A 0x04 []) classPresented = .next b := ⟨rfl, ⟨_, rfl⟩, _, rfl⟩

theorem witness_TxResultIgnoresState :
    (∃ t, exec (.txFrame 0x0A 0x04 []) State.reset = .next t) ∧ ∃ t, exec (.txFrame 0x0A 0x04 []) midPayload = .next t :=
  ⟨⟨_, rfl⟩, _, rfl⟩

theorem witness_RxStepEmitsOneRecord :
    isRx (.reserved 0x200) = true ∧ ∃ t, exec (.reserved 0x200) midPayload = .next t := ⟨rfl, _, rfl⟩

theorem witness_OnlyThreePathsReport :
    isRx (.reserved 0x200) = true ∧
      ∃ t, exec (.reserved 0x200) midPayload = .next t ∧ t.rxEvent = some (.bare .illegalCommand) ∧
        (Event.bare .illegalCommand).kind ≠ .quiet := ⟨rfl, _, rfl, rfl, by decide⟩

/-- A key that is absent; `Fixed(4)` at 4 and at 5. -/
theorem witness_AcceptedFrameEvent_fixed :
    (accepting 0x0A 0x04 0).rxCkA = (accepting 0x0A 0x04 0).ckA ∧ (0x00 : Byte) = (accepting 0x0A 0x04 0).ckB ∧
    regLookup cfg16.registry 0x0A 0x04 = none ∧
    regLookup cfg16.registry 0x01 0x02 = some (0, { eCls := 0x01, eId := 0x02, eRule := .fixed 4 }) ∧
    (accepting 0x01 0x02 4).len = 4 ∧ (accepting 0x01 0x02 5).len ≠ 4 := by decide

/-- `Trailing(2, 3)`: an empty group at 2, one element at 5, and the mismatches at 1 and 4. -/
theorem witness_AcceptedFrameEvent_trailing :
    regLookup cfg16.registry 0x02 0x10 = some (1, { eCls := 0x02, eId := 0x10, eRule := .trailing 2 3 }) ∧
    ((2 : U16).toNat ≤ (2 : U16).toNat ∧ ((2 : U16).toNat - (2 : U16).toNat) % (3 : U16).toNat = 0) ∧
    ((2 : U16).toNat ≤ (5 : U16).toNat ∧ ((5 : U16).toNat - (2 : U16).toNat) % (3 : U16).toNat = 0) ∧
    ¬ (2 : U16).toNat ≤ (1 : U16).toNat ∧ ¬ ((4 : U16).toNat - (2 : U16).toNat) % (3 : U16).toNat = 0 := by decide

theorem witness_OversizeEntriesNeverDelivered :
    Inv cfg16 beforeLast ∧ push cfg16 0x32 beforeLast = .next afterLast ∧ afterLast.rxEvent = some delivered ∧
      delivered.kind = .deliver := ⟨beforeLast_inv, rfl, rfl, rfl⟩

/-- The entry found is `Fixed(4)`; one of `Trailing` form is found by its key. -/
theorem witness_OversizeEntriesNeverDelivered_rules :
    (testRegistry.entries[0]?).map RegEntry.eRule = some (.fixed 4) ∧
    (testRegistry.entries[1]?).map RegEntry.eRule = some (.trailing 2 3) := by decide

theorem witness_RegistrySizeBound :
    regLookup testRegistry 0x05 0x01 = some (2, { eCls := 0x05, eId := 0x01, eRule := .fixed 2 }) := by decide

theorem witness_RomWordRoundTrip :
    (RegEntry.mk 0x02 0x10 (.trailing 2 3)).eRule.legal = true ∧
    decodeRomWord 0x02108000020003 = .ok { eCls := 0x02, eId := 0x10, eRule := .trailing 2 3 } := ⟨rfl, rfl⟩

theorem witness_OnlyLegalConfigurationsBuild_image :
    decodeRomImage [0x01020000040000] = .ok [{ eCls := 0x01, eId := 0x02, eRule := .fixed 4 }] := rfl

theorem witness_OnlyLegalConfigurationsBuild :
    (buildConfig { sync1 := 0xB5, sync2 := 0x62, rescanOnReject := true, pCap := 65535,
                   romImage := [0x01020000040000, 0x02108000020003, 0x05010000020000] }).toOption.isSome = true := by decide

theorem witness_AccExtendsChecksum : ck [0x01] = (({ State.reset with ckA := 0x01, ckB := 0x01 } : State).ckA,
    ({ State.reset with ckA := 0x01, ckB := 0x01 } : State).ckB) := by decide

theorem witness_ChecksumDetection : (0x01 : Byte) ≠ 0x02 ∧ (List.replicate 255 (0x00 : Byte)).length = 255 :=
  ⟨by decide, List.length_replicate ..⟩

theorem witness_CommandSelectorTable :
    (0x0FF : CmdWord).toNat / 256 = 0 ∧ (0x100 : CmdWord).toNat / 256 = 1 ∧ (0x1FF : CmdWord).toNat / 256 = 1 ∧
      2 ≤ (0x200 : CmdWord).toNat / 256 := by decide

theorem witness_DecodeEncodeRoundTrip :
    (Instr.pushSeekSync1Other 0x62).wellFormed block = true ∧
      encode block (.pushSeekSync1Other 0x62) = some (.key14 0x0062) := by decide

/-- State codes 8 and 9 with selector 00. -/
theorem witness_KeyTableCovers :
    decodeKey block 0x2000 = .ok (.pushReadChecksumB 0x00) ∧ cmdOp (keyCommand 0x2000) = 0 ∧
      errorOf (decodeKey block 0x2400) = some .reservedStateCode := ⟨rfl, rfl, rfl⟩

theorem witness_DecodedFrameIsTheFrame :
    decodeFrame block [0xB5, 0x62, 0x0A, 0x04, 0x00, 0x00, 0x0E, 0x34] = .ok (.txFrame 0x0A 0x04 []) := rfl

theorem witness_FrameLayout : ([] : List Byte).length ≤ 65535 ∧ [(0xAA : Byte), 0x55].length ≤ 65535 := by decide

/-- The last byte of the payload on offer, the first index beyond it, and the first index beyond the buffer. -/
theorem witness_PayloadReadWindow :
    (Inv cfg16 afterLast ∧ afterLast.rxEvent = some delivered ∧
      delivered.payload = some [0x01, 0x00, 0x00, 0x00] ∧ [(0x01 : Byte), 0x00, 0x00, 0x00][3]? = some 0x00) ∧
    (∀ e p, afterLast.rxEvent = some e → e.payload = some p → e.evLen.toNat ≤ 4) ∧ cfg16.pCap.val ≤ 16 :=
  ⟨⟨afterLast_inv, rfl, rfl, rfl⟩, by
    intro e p h _
    have h : delivered = e := by simpa [afterLast] using h
    subst h
    decide, by decide⟩

theorem witness_CommandEndsReadWindow :
    isRx (.flush 0) = true ∧ (∃ t, exec (.flush 0) afterLast = .next t) ∧ (∀ b, Instr.flush 0 ≠ .pushReadChecksumB b) ∧
      ∀ b, ¬ (Instr.flush 0 = .push b ∧ afterLast.st = .readChecksumB) :=
  ⟨rfl, ⟨_, rfl⟩, by simp, by simp⟩

/-- Chunks `01` and `02`, cut inside the header; the first completes from a state that meets the invariant. -/
theorem witness_ChunkBoundariesInvisible :
    1 ≤ [HostMove.rx 0x001].length ∧
    (∃ t : State, Host.Core.run Sys2Proof.core [(0x01 : Byte)].length { classPresented with input := chunk [0x01] } = .next t) ∧
    Inv block classPresented ∧ 0 < 1 ∧ 1 ≤ [(0x01 : Byte)].length :=
  ⟨Nat.le_refl _, ⟨_, rfl⟩, classPresented_inv, Nat.one_pos, Nat.le_refl _⟩

theorem witness_FrameOutcome :
    State.reset.st = .seekSync1 ∧ (List.replicate 16 (0 : Byte)).length ≤ 65535 ∧
    (List.replicate 16 (0 : Byte)).length ≤ cfg16.pCap.val ∧ ¬ (List.replicate 17 (0 : Byte)).length ≤ cfg16.pCap.val := by
  decide

/-- A frame without payload fits at every capacity, this block's open one among them. -/
theorem witness_TransmittedFrameIsReceived :
    ({ State.reset with input := chunk (frame block 0x0A 0x04 []) ++ [.rx 0x100] } : State).st = .seekSync1 ∧
    ([] : List Byte).length ≤ 65535 ∧ ([] : List Byte).length ≤ block.pCap.val ∧
    ({ State.reset with input := chunk (frame block 0x0A 0x04 []) ++ [.rx 0x100] } : State).input =
      chunk (frame block 0x0A 0x04 []) ++ [.rx 0x100] := ⟨rfl, Nat.zero_le _, Nat.zero_le _, rfl⟩

/-- Each of the five ways to be corrupted, on the frame of L1.1 (L2.11). -/
theorem witness_CorruptedFrameIsRejected :
    ck (coveredBytes 0x01 0x02 [0x01, 0x00, 0x00, 0x00]) = (0x08, 0x32) ∧ [(0x01 : Byte), 0x00, 0x00, 0x00].length ≤ cfg16.pCap.val ∧
    (0x00 : Byte) ≠ 0x01 ∧ (0x03 : Byte) ≠ 0x02 ∧
    [(0x01 : Byte), 0x00, 0x00, 0x00] = [] ++ 0x01 :: [0x00, 0x00, 0x00] ∧ (0x01 : Byte) ≠ 0x00 ∧
    (0x09 : Byte) ≠ 0x08 ∧ (0x33 : Byte) ≠ 0x32 := by decide

theorem witness_BadframeIsRejected : State.reset.st = .seekSync1 ∧ [(0xAA : Byte), 0x55].length ≤ cfg16.pCap.val := by decide

/-- The noise of L1.2, a lone first marker at its end. -/
theorem witness_FrameAfterNoiseIsReceived :
    cfg16.sync1 ≠ cfg16.sync2 ∧ State.reset.st = .seekSync1 ∧ noSyncPair cfg16 [0x00, 0xFF, 0xB5, 0x00, 0xB5, 0xB5] ∧
      [(0xAA : Byte), 0x55].length ≤ cfg16.pCap.val := by
  refine ⟨by decide, rfl, ?_, by decide⟩
  intro k
  by_cases h : k < 6
  · interval_cases k <;> decide
  · rintro ⟨h1, -⟩
    rw [List.getElem?_eq_none (by simp; omega)] at h1
    cases h1

theorem witness_ReceiverRecovers :
    Inv cfg16 midPayload ∧ (List.replicate 22 (0xB5 : Byte)).length = cfg16.pCap.val + 6 := ⟨midPayload_inv, by decide⟩

end Sys2Proof.Tests
end

namespace Sys2Proof.Proofs

/-! ## Registry size and lookup (00_scope.md R5, R6 (b)) -/

/-- The keys of a registry are distinct pairs of bytes, of which there are 65536 (R6 (b)). -/
theorem nDef_le (r : Registry) : r.nDef ≤ 65536 := by
  calc r.nDef = (r.entries.map RegEntry.key).length := (List.length_map RegEntry.key).symm
    _ ≤ Fintype.card (Byte × Byte) := r.unique.length_le_card
    _ = 65536 := by simp [Fintype.card_congr BitVec.equivFin.toEquiv]

/-- What the loop of `RegLookup` finds from index `n` on is an entry of the list, with the key asked for, at its own place. -/
theorem regLookupFrom_some {c i : Byte} {es : List RegEntry} {n k : Nat} {e : RegEntry}
    (h : Machine.regLookupFrom c i es n = some (k, e)) : ∃ j, k = n + j ∧ es[j]? = some e ∧ e.key = (c, i) := by
  induction es generalizing n with
  | nil => cases h
  | cons x xs ih =>
    rw [Machine.regLookupFrom] at h
    split at h
    next hkey =>
      obtain ⟨rfl, rfl⟩ : n = k ∧ x = e := by simpa using h
      exact ⟨0, rfl, rfl, by simpa [RegEntry.key] using hkey⟩
    next =>
      obtain ⟨j, rfl, hj, hkey⟩ := ih h
      exact ⟨j + 1, by omega, hj, hkey⟩

/-- `RegLookup` answers an entry of the registry that has the key asked for, with its index (R122). -/
theorem regLookup_some {r : Registry} {c i : Byte} {k : Nat} {e : RegEntry}
    (h : Machine.regLookup r c i = some (k, e)) : r.entries[k]? = some e ∧ e.key = (c, i) := by
  obtain ⟨j, rfl, hj, hkey⟩ := regLookupFrom_some h
  exact ⟨by rwa [Nat.zero_add], hkey⟩

theorem regLookup_index_lt {r : Registry} {c i : Byte} {k : Nat} {e : RegEntry}
    (h : Machine.regLookup r c i = some (k, e)) : k < r.nDef := by
  obtain ⟨hk, -⟩ := List.getElem?_eq_some_iff.mp (regLookup_some h).1
  exact hk

/-- Settles O33: distinct keys bound the size, and an index below 65536 survives its 16 bits. -/
theorem registrySizeBound : Obligations.RegistrySizeBound := by
  intro r
  refine ⟨nDef_le r, fun c i k e h => ?_⟩
  have hk : k < 65536 := (regLookup_index_lt h).trans_le (nDef_le r)
  rw [BitVec.toNat_ofNat, Nat.mod_eq_of_lt hk]

/-! ## Building the block (00_scope.md R6, 30_encoding.md R71) -/

theorem decodeRomImage_cons_ok_iff {w : RomWord} {ws : List RomWord} {l : List RegEntry} :
    decodeRomImage (w :: ws) = .ok l ↔ ∃ e es, decodeRomWord w = .ok e ∧ decodeRomImage ws = .ok es ∧ l = e :: es := by
  rw [decodeRomImage]
  cases decodeRomWord w <;> cases decodeRomImage ws <;> simp [eq_comm]

/-- An image decodes exactly when its words do, one by one and in order. -/
theorem decodeRomImage_ok_iff {image : List RomWord} {es : List RegEntry} :
    decodeRomImage image = .ok es ↔ List.Forall₂ (fun w e => decodeRomWord w = .ok e) image es := by
  induction image generalizing es with
  | nil => simp [decodeRomImage, eq_comm]
  | cons w ws ih => simp [decodeRomImage_cons_ok_iff, List.forall₂_cons_left_iff, ih]

/-- A ROM word that decodes gives an entry with a legal width (R6 (c)). -/
theorem decodeRomWord_legal {w : RomWord} {e : RegEntry} (h : decodeRomWord w = .ok e) : e.eRule.legal = true := by
  simp only [decodeRomWord] at h
  split at h
  · cases h
  · split at h
    · split at h
      · cases h
      next hwidth =>
        cases h
        simpa [LengthRule.legal] using hwidth
    · split at h <;> cases h
      rfl

theorem decodeRomImage_legal {image : List RomWord} {es : List RegEntry} (h : decodeRomImage image = .ok es) :
    ∀ e ∈ es, e.eRule.legal = true := by
  rw [decodeRomImage_ok_iff] at h
  induction h with
  | nil => simp
  | cons hw _ ih => exact List.forall_mem_cons.mpr ⟨decodeRomWord_legal hw, ih⟩

/-- A registry carries R6 (b) and (c), so it is built from its own entries and from no others. -/
theorem registryOfEntries_ok_iff {es : List RegEntry} {r : Registry} : registryOfEntries es = .ok r ↔ r.entries = es := by
  constructor
  · intro h
    unfold registryOfEntries at h
    split at h
    · split at h <;> cases h
      rfl
    · cases h
  · rintro rfl
    rw [registryOfEntries, dif_pos r.widths, dif_pos r.unique]

theorem loadRegistry_ok_iff {image : List RomWord} {r : Registry} :
    loadRegistry image = .ok r ↔ decodeRomImage image = .ok r.entries := by
  rw [loadRegistry]
  cases decodeRomImage image with
  | error x => simp
  | ok es => simp [registryOfEntries_ok_iff, @eq_comm _ es]

/-- Building answers exactly the configuration that has the parameters given and the entries of the image. -/
theorem buildConfig_ok_iff {raw : RawConfig} {cfg : Config} :
    buildConfig raw = .ok cfg ↔
      cfg.sync1 = raw.sync1 ∧ cfg.sync2 = raw.sync2 ∧ cfg.rescanOnReject = raw.rescanOnReject ∧ cfg.pCap.val = raw.pCap ∧
        decodeRomImage raw.romImage = .ok cfg.registry.entries := by
  rw [← loadRegistry_ok_iff]
  constructor
  · intro h
    unfold buildConfig at h
    split at h
    · split at h <;> cases h
      next hr => exact ⟨rfl, rfl, rfl, rfl, hr⟩
    · cases h
  · obtain ⟨s1, s2, rescan, cap, r⟩ := cfg
    rintro ⟨rfl, rfl, rfl, hcap, hr⟩
    simp only at hcap hr
    simp [buildConfig, hr, ← hcap]

/-- A configuration can be built exactly from a capacity of 16 bits and an image of legal words with unique keys (R6). -/
theorem exists_buildConfig_ok_iff {raw : RawConfig} :
    (∃ cfg, buildConfig raw = .ok cfg) ↔
      raw.pCap ≤ 65535 ∧ ∃ es, decodeRomImage raw.romImage = .ok es ∧ (es.map RegEntry.key).Nodup := by
  constructor
  · rintro ⟨cfg, h⟩
    obtain ⟨-, -, -, hcap, himage⟩ := buildConfig_ok_iff.mp h
    exact ⟨by omega, cfg.registry.entries, himage, cfg.registry.unique⟩
  · rintro ⟨hcap, es, himage, hunique⟩
    exact ⟨⟨raw.sync1, raw.sync2, raw.rescanOnReject, ⟨raw.pCap, by omega⟩, ⟨es, hunique, decodeRomImage_legal himage⟩⟩,
      buildConfig_ok_iff.mpr ⟨rfl, rfl, rfl, rfl, himage⟩⟩

/-- Settles O35, from the characterisations of the image decoder and of the builder. -/
theorem onlyLegalConfigurationsBuild : Obligations.OnlyLegalConfigurationsBuild :=
  ⟨fun _ _ => decodeRomImage_ok_iff, fun _ => ⟨exists_buildConfig_ok_iff, fun _ => buildConfig_ok_iff.mp⟩⟩

end Sys2Proof.Proofs

namespace Sys2Proof.Proofs

open Machine

/-! ## What a step runs (30_encoding.md R66, R69; 70_reset_and_hazards.md R170) -/

theorem exec_push (b : Byte) (s : State) : exec (.push b) s = push block b s := rfl

theorem exec_flush (data : Byte) (s : State) : exec (.flush data) s = .next (emit .silent (idle s)) := rfl

theorem exec_reserved (w : CmdWord) (s : State) : exec (.reserved w) s = .next (emit (.bare .illegalCommand) s) := rfl

theorem exec_txFrame (c i : Byte) (p : List Byte) (s : State) :
    exec (.txFrame c i p) s = .next (txReport (txOutcome block c i p) s) := rfl

/-- The row the key table selects for a pushed byte does what `PUSH` does in that state (R69, R80). -/
theorem exec_pushRow (b : Byte) (s : State) : exec (pushRow block s.st b) s = exec (.push b) s := by
  rw [exec_push]
  unfold push pushRow
  cases s.st
  case seekSync1 | seekSync2 =>
    dsimp only
    split
    next hb => subst hb; rfl
    next => rfl
  all_goals rfl

theorem decodeCommand_push (b : Byte) : decodeCommand (cmdWord 0 b) = .push b := by simp [decodeCommand]

theorem decodeCommand_flush (data : Byte) : decodeCommand (cmdWord 1 data) = .flush data := by simp [decodeCommand]

theorem decodeCommand_reserved {op : BitVec 2} (h : op = 2 ∨ op = 3) (data : Byte) :
    decodeCommand (cmdWord op data) = .reserved (cmdWord op data) := by
  rcases h with rfl | rfl <;> simp [decodeCommand]

/-- Every command word is a `PUSH`, a `FLUSH` or reserved (R66). -/
theorem decodeCommand_cases (w : CmdWord) :
    (∃ b, decodeCommand w = .push b) ∨ (∃ data, decodeCommand w = .flush data) ∨ decodeCommand w = .reserved w := by
  rw [← cmdWord_op_data w]
  rcases selector_cases (cmdOp w) with hop | hop | hop
  · exact .inl ⟨_, by rw [hop, decodeCommand_push]⟩
  · exact .inr (.inl ⟨_, by rw [hop, decodeCommand_flush]⟩)
  · exact .inr (.inr (decodeCommand_reserved hop _))

/-- In every state the key of a command word decodes, to an instruction that does what the command does (R66, R69). -/
theorem decode_dispatchKey (w : CmdWord) (s : State) :
    ∃ i, decode block (.key14 (dispatchKey w s)) = .ok i ∧ ∀ t, t.st = s.st → exec i t = exec (decodeCommand w) t := by
  rw [dispatchKey, decode, ← cmdWord_op_data w, decodeKey_fields]
  rcases selector_cases (cmdOp w) with hop | hop | hop
  · refine ⟨pushRow block s.st (cmdData w), by simp [hop], fun t ht => ?_⟩
    rw [hop, decodeCommand_push, ← ht, exec_pushRow]
  · refine ⟨.flush (cmdData w), by simp [hop], fun t _ => ?_⟩
    rw [hop, decodeCommand_flush]
  · refine ⟨.reserved (cmdWord (cmdOp w) (cmdData w)), ?_, fun t _ => ?_⟩
    · rcases hop with hop | hop <;> simp [hop]
    · rw [decodeCommand_reserved hop]

theorem step_pause {s : State} (h : s.input = []) : step s = .next s := by simp [step, fetch, h]

/-- A word on the RX command port runs its command. -/
theorem step_rx {s : State} {w : CmdWord} {rest : List HostMove} (h : s.input = .rx w :: rest) :
    step s = exec (decodeCommand w) { s with input := rest } := by
  obtain ⟨i, hi, hexec⟩ := decode_dispatchKey w s
  rw [← hexec { s with input := rest } rfl]
  simp [step, fetch, h, hi]

theorem step_tx {s : State} {c i : Byte} {p : List Byte} {rest : List HostMove} (h : s.input = .tx c i p :: rest) :
    step s = exec (.txFrame c i p) { s with input := rest } := by simp [step, fetch, h]

theorem step_rst {s : State} {presented : Option CmdWord} {rest : List HostMove} (h : s.input = .rst presented :: rest) :
    step s = .next (applyReset { s with input := rest }) := by simp [step, fetch, h]

theorem step_bufRead {s : State} {k : Nat} {rest : List HostMove} (h : s.input = .bufRead k :: rest) :
    step s = .next (consumerRead k { s with input := rest }) := by simp [step, fetch, h]

/-! ## The parts of the invariant (10_state.md R30) -/

/-- `CK` of one more byte (43_checksum.md R110, R112). -/
theorem ck_append_singleton (l : List Byte) (b : Byte) : ck (l ++ [b]) = ckStep (ck l) b := by
  simp [ck]

/-- What the invariant says of a buffer and an event record: its clauses `bufForm`, `bufBound` and `window`. -/
structure BufferInv (cfg : Config) (m : List Host.Cell) (ev : Option Event) : Prop where
  form : Memory.wf m
  bound : ∀ c ∈ m, c.1 < cfg.pCap.val
  window : ∀ e p, ev = some e → e.payload = some p → e.evLen.toNat ≤ cfg.pCap.val ∧ p = payloadView m e.evLen

section BufferInv

variable {cfg : Config} {m : List Host.Cell} {ev : Option Event}

theorem bufferInv_of_inv {s : State} (h : Inv cfg s) : BufferInv cfg s.buf s.rxEvent := ⟨h.bufForm, h.bufBound, h.window⟩

/-- A bare event offers no payload, so it ends the window. -/
theorem BufferInv.bare (h : BufferInv cfg m ev) (k : EventKind) : BufferInv cfg m (some (.bare k)) where
  form := h.form
  bound := h.bound
  window := by
    rintro e p ⟨⟩ ⟨⟩

theorem BufferInv.noEvent (h : BufferInv cfg m ev) : BufferInv cfg m none where
  form := h.form
  bound := h.bound
  window := by
    rintro e p ⟨⟩

/-- The event of an accepted frame offers what the buffer holds, if the length fits. -/
theorem BufferInv.demux (h : BufferInv cfg m ev) (r : Registry) (c i : Byte) {n : U16} (hn : n.toNat ≤ cfg.pCap.val) :
    BufferInv cfg m (some (demux r c i n (payloadView m n))) where
  form := h.form
  bound := h.bound
  window := by
    rintro e p ⟨⟩ hp
    rw [demux_evLen]
    exact ⟨hn, demux_payload hp⟩

/-- A byte stored inside the buffer keeps its form; the step that stores it ends the window. -/
theorem BufferInv.write (h : BufferInv cfg m ev) {a : Nat} (ha : a < cfg.pCap.val) (v : Byte) :
    BufferInv cfg (Memory.write m a v) (some .silent) :=
  have hm : BufferInv cfg (Memory.write m a v) none :=
    { form := Memory.write_wf a v h.form
      bound := fun c hc => by
        rcases Memory.mem_write hc with rfl | hc
        · exact ha
        · exact h.bound c hc
      window := by
        rintro e p ⟨⟩ }
  hm.bare .quiet

end BufferInv

/-- While RX seeks, the invariant asks for cleared registers. -/
theorem inv_of_seeking {cfg : Config} {s : State} (hst : s.st = .seekSync1 ∨ s.st = .seekSync2) (hreg : registersCleared s)
    (hbuf : BufferInv cfg s.buf s.rxEvent) : Inv cfg s := by
  obtain ⟨-, -, -, hcnt, hckA, hckB, -⟩ := id hreg
  have hcovered : covered s = [] := by rcases hst with hst | hst <;> simp [covered, hst]
  exact
    { seeking := fun _ => hreg
      header := fun _ => hcnt
      fits := by rcases hst with hst | hst <;> simp [hst, lengthAccepted]
      counting := by rcases hst with hst | hst <;> simp [hst]
      counted := by rcases hst with hst | hst <;> simp [hst]
      sums := by simp [hcovered, hckA, hckB, ck]
      stored := by simp [hcnt]
      bufForm := hbuf.form
      bufBound := hbuf.bound
      window := hbuf.window }

/-- While the header is read, it asks for the sums of the header bytes so far. -/
theorem inv_of_header {cfg : Config} {s : State} (hst : readsHeader s.st = true) (hcnt : s.cnt = 0)
    (hsums : ck (covered s) = (s.ckA, s.ckB)) (hbuf : BufferInv cfg s.buf s.rxEvent) : Inv cfg s where
  seeking := by revert hst; cases hs : s.st <;> simp [readsHeader, frameInProgress, hs]
  header := fun _ => hcnt
  fits := by revert hst; cases s.st <;> simp [readsHeader, lengthAccepted]
  counting := by revert hst; cases s.st <;> simp [readsHeader]
  counted := by revert hst; cases s.st <;> simp [readsHeader]
  sums := hsums
  stored := by simp [hcnt]
  bufForm := hbuf.form
  bufBound := hbuf.bound
  window := hbuf.window

/-- From the accepted length on, it asks for (I3) to (I6). -/
theorem inv_of_lengthAccepted {cfg : Config} {s : State} (hst : lengthAccepted s.st = true)
    (hfits : s.len.toNat ≤ cfg.pCap.val)
    (hcnt : if s.st = .readPayload then s.cnt.toNat < s.len.toNat else s.cnt = s.len)
    (hsums : ck (frameHeader s.cls s.id s.len ++ payloadView s.buf s.cnt) = (s.ckA, s.ckB))
    (hstored : ∀ k, k < s.cnt.toNat → (Memory.read s.buf k).isSome = true)
    (hbuf : BufferInv cfg s.buf s.rxEvent) : Inv cfg s where
  seeking := by revert hst; cases hs : s.st <;> simp [lengthAccepted, frameInProgress, hs]
  header := by revert hst; cases s.st <;> simp [readsHeader, lengthAccepted]
  fits := fun _ => hfits
  counting := fun h => by simpa [h] using hcnt
  counted := fun h => by rcases h with h | h <;> simpa [h] using hcnt
  sums := by
    rw [← hsums]
    revert hst
    cases hs : s.st <;> simp [lengthAccepted, covered, hs]
  stored := hstored
  bufForm := hbuf.form
  bufBound := hbuf.bound
  window := hbuf.window

/-! ## What keeps the invariant -/

section InvKept

variable {cfg : Config} {s : State}

/-- The invariant speaks of RX alone: not of the host's moves, of TX's outputs or of the consumer's side. -/
theorem inv_takeMove (h : Inv cfg s) (rest : List HostMove) : Inv cfg { s with input := rest } := { h with }

theorem inv_txReport (h : Inv cfg s) (r : TxResult) : Inv cfg (txReport r s) := { h with }

theorem inv_consumerRead (h : Inv cfg s) (k : Nat) : Inv cfg (consumerRead k s) := { h with }

theorem inv_emit_bare (h : Inv cfg s) (k : EventKind) : Inv cfg (emit (.bare k) s) :=
  { h with window := ((bufferInv_of_inv h).bare k).window }

theorem registersCleared_idle (s : State) : registersCleared (idle s) := ⟨rfl, rfl, rfl, rfl, rfl, rfl, rfl⟩

/-- `Idle()` and what follows it: cleared registers, RX seeking, an event that the buffer bears out (R81, R91). -/
theorem inv_idle {st : RxState} {ev : Option Event} (hst : st = .seekSync1 ∨ st = .seekSync2)
    (hbuf : BufferInv cfg s.buf ev) : Inv cfg { idle s with st := st, rxEvent := ev } :=
  inv_of_seeking hst (registersCleared_idle s) hbuf

theorem rejectState_seeks (cfg : Config) (b : Byte) : rejectState cfg b = .seekSync1 ∨ rejectState cfg b = .seekSync2 := by
  unfold rejectState
  split
  · exact .inr rfl
  · exact .inl rfl

theorem inv_reject (h : Inv cfg s) (b : Byte) (k : EventKind) :
    Inv cfg { idle s with st := rejectState cfg b, rxEvent := some (.bare k) } :=
  inv_idle (rejectState_seeks cfg b) ((bufferInv_of_inv h).bare k)

theorem inv_flush (h : Inv cfg s) : Inv cfg (emit .silent (idle s)) :=
  inv_idle (.inl rfl) ((bufferInv_of_inv h).bare .quiet)

theorem inv_applyReset (h : Inv cfg s) : Inv cfg (applyReset s) :=
  inv_idle (.inl rfl) (bufferInv_of_inv h).noEvent

/-- R90: the length of the frame delivered fits, by (I3). -/
theorem inv_accept (h : Inv cfg s) (hst : s.st = .readChecksumB) :
    Inv cfg { idle s with rxEvent := some (acceptEvent cfg s) } :=
  inv_idle (.inl rfl) ((bufferInv_of_inv h).demux _ _ _ (h.fits (by simp [hst, lengthAccepted])))

theorem registersCleared_of_seeking (h : Inv cfg s) (hst : s.st = .seekSync1 ∨ s.st = .seekSync2) : registersCleared s :=
  h.seeking (by rcases hst with hst | hst <;> simp [frameInProgress, hst])

/-- R82, and R83 on another byte than `SYNC2`: RX goes on seeking. -/
theorem inv_seekOn (h : Inv cfg s) (hst : s.st = .seekSync1 ∨ s.st = .seekSync2) (b : Byte) :
    Inv cfg { s with st := if b = cfg.sync1 then .seekSync2 else .seekSync1, rxEvent := some Event.silent } := by
  have hreg : registersCleared s := registersCleared_of_seeking h hst
  refine inv_of_seeking ?_ hreg ((bufferInv_of_inv h).bare .quiet)
  dsimp only
  split
  · exact .inr rfl
  · exact .inl rfl

/-- R83: a frame begins, nothing counted and nothing summed. -/
theorem inv_frameBegins (h : Inv cfg s) :
    Inv cfg { s with st := .readClass, ckA := 0, ckB := 0, cnt := 0, rxEvent := some Event.silent } :=
  inv_of_header rfl rfl rfl ((bufferInv_of_inv h).bare .quiet)

/-- (I5) after one more covered byte, which `Acc` adds (43_checksum.md R112). -/
theorem ck_covered_append (h : Inv cfg s) (b : Byte) : ck (covered s ++ [b]) = (s.ckA + b, s.ckB + (s.ckA + b)) := by
  rw [ck_append_singleton, h.sums]
  rfl

/-- R84 to R86: a header byte short of the last extends the covered bytes by itself. -/
theorem inv_headerByte (h : Inv cfg s) (hst : readsHeader s.st = true) {t : State} {b : Byte} (ht : readsHeader t.st = true)
    (hcnt : t.cnt = s.cnt) (hckA : t.ckA = s.ckA + b) (hckB : t.ckB = s.ckB + (s.ckA + b)) (hbuf : t.buf = s.buf)
    (hev : t.rxEvent = some Event.silent) (hcovered : covered t = covered s ++ [b]) : Inv cfg t := by
  refine inv_of_header ht (hcnt.trans (h.header hst)) ?_ ?_
  · rw [hcovered, hckA, hckB, ck_covered_append h]
  · rw [hbuf, hev]
    exact (bufferInv_of_inv h).bare .quiet

@[simp] theorem lowByte_lenOfLow (b : Byte) : lowByte (lenOfLow b) = b := by
  apply BitVec.eq_of_toNat_eq
  rw [lowByte_toNat, lenOfLow, BitVec.toNat_setWidth]
  have := b.isLt
  omega

/-- The last header byte completes the length bytes (R87). -/
theorem frameHeader_lenWithHigh (c i b : Byte) (len : U16) :
    frameHeader c i (lenWithHigh b len) = [c, i, lowByte len] ++ [b] := by
  simp [frameHeader, lenWithHigh]

/-- R87: a length that fits is accepted, with no payload byte counted yet. -/
theorem inv_lengthAccepted (h : Inv cfg s) (hst : s.st = .readLenHigh) {b : Byte}
    (hfits : (lenWithHigh b s.len).toNat ≤ cfg.pCap.val) :
    Inv cfg { s with len := lenWithHigh b s.len, ckA := s.ckA + b, ckB := s.ckB + (s.ckA + b),
                     st := if lenWithHigh b s.len = 0 then .readChecksumA else .readPayload,
                     rxEvent := some Event.silent } := by
  have hcnt : s.cnt = 0 := h.header (by simp [hst, readsHeader])
  have hcovered : covered s = [s.cls, s.id, lowByte s.len] := by simp [covered, hst]
  have hview : payloadView s.buf s.cnt = [] := by rw [hcnt]; exact payloadView_zero s.buf
  refine inv_of_lengthAccepted ?_ hfits ?_ ?_ (by simp [hcnt]) ((bufferInv_of_inv h).bare .quiet)
  · dsimp only
    split <;> rfl
  · by_cases hlen : lenWithHigh b s.len = 0
    · simp only [hlen, hcnt, if_true, reduceCtorEq, if_false]
    · have hpos : (lenWithHigh b s.len).toNat ≠ 0 := fun h0 => hlen (BitVec.eq_of_toNat_eq h0)
      simp only [hlen, hcnt, if_false, if_true]
      exact Nat.pos_of_ne_zero hpos
  · simp only [hview, List.append_nil, frameHeader_lenWithHigh, ← hcovered]
    exact ck_covered_append h b

/-- R88: a payload byte is stored at the count, which then covers it. -/
theorem inv_payloadByte (h : Inv cfg s) (hst : s.st = .readPayload) (b : Byte) :
    Inv cfg { s with buf := Memory.write s.buf s.cnt.toNat b, cnt := s.cnt + 1, ckA := s.ckA + b,
                     ckB := s.ckB + (s.ckA + b), st := if s.cnt + 1 = s.len then .readChecksumA else .readPayload,
                     rxEvent := some Event.silent } := by
  have hlt : s.cnt.toNat < s.len.toNat := h.counting hst
  have hfits : s.len.toNat ≤ cfg.pCap.val := h.fits (by simp [hst, lengthAccepted])
  have hmax : s.cnt.toNat < 65535 := by have := s.len.isLt; omega
  have hsucc : (s.cnt + 1).toNat = s.cnt.toNat + 1 := BitVec.toNat_add_of_lt (by simpa using Nat.succ_lt_succ hmax)
  have hcovered : covered s = frameHeader s.cls s.id s.len ++ payloadView s.buf s.cnt := by simp [covered, hst]
  refine inv_of_lengthAccepted ?_ hfits ?_ ?_ ?_ ((bufferInv_of_inv h).write (hlt.trans_le hfits) b)
  · dsimp only
    split <;> rfl
  · by_cases hlast : s.cnt + 1 = s.len
    · simp only [hlast, if_true, reduceCtorEq, if_false]
    · have hne : (s.cnt + 1).toNat ≠ s.len.toNat := fun he => hlast (BitVec.eq_of_toNat_eq he)
      simp only [hlast, if_false, if_true]
      omega
  · simp only [payloadView_write_succ _ _ _ hmax, ← List.append_assoc, ← hcovered]
    exact ck_covered_append h b
  · intro k hk
    dsimp only at hk ⊢
    by_cases hkc : k = s.cnt.toNat
    · simp [hkc]
    · rw [Memory.read_write_other _ _ hkc]
      exact h.stored k (by omega)

/-- R89: the first checksum byte is kept, the count stays. -/
theorem inv_checksumA (h : Inv cfg s) (hst : s.st = .readChecksumA) (b : Byte) :
    Inv cfg { s with rxCkA := b, st := .readChecksumB, rxEvent := some Event.silent } := by
  refine inv_of_lengthAccepted rfl (h.fits (by simp [hst, lengthAccepted])) ?_ ?_ h.stored
    ((bufferInv_of_inv h).bare .quiet)
  · exact h.counted (.inl hst)
  · rw [← h.sums]
    simp [covered, hst]

/-- A `PUSH` keeps the invariant at every configuration, row by row of R92. -/
theorem inv_push (h : Inv cfg s) {b : Byte} {t : State} (ht : push cfg b s = .next t) : Inv cfg t := by
  rcases push_cases ht with ⟨hst, rfl⟩ | ⟨-, -, rfl⟩ | ⟨hst, -, rfl⟩ | ⟨hst, rfl⟩ | ⟨hst, rfl⟩ | ⟨hst, rfl⟩ |
    ⟨-, -, rfl⟩ | ⟨hst, hfits, rfl⟩ | ⟨hst, -, rfl⟩ | ⟨hst, rfl⟩ | ⟨hst, -, rfl⟩ | ⟨-, -, rfl⟩
  · exact inv_seekOn h (.inl hst) b
  · exact inv_frameBegins h
  · exact inv_seekOn h (.inr hst) b
  · exact inv_headerByte h (by simp [hst, readsHeader]) rfl rfl rfl rfl rfl rfl (by simp [covered, hst])
  · exact inv_headerByte h (by simp [hst, readsHeader]) rfl rfl rfl rfl rfl rfl (by simp [covered, hst])
  · exact inv_headerByte h (by simp [hst, readsHeader]) rfl rfl rfl rfl rfl rfl (by simp [covered, hst])
  · exact inv_reject h b .rejectOversize
  · exact inv_lengthAccepted h hst hfits
  · exact inv_payloadByte h hst b
  · exact inv_checksumA h hst b
  · exact inv_accept h hst
  · exact inv_reject h b .rejectChecksum

end InvKept

/-- Every command of the RX port keeps the invariant (30_encoding.md R66). -/
theorem inv_exec_decodeCommand {s t : State} (h : Inv block s) {w : CmdWord} (ht : exec (decodeCommand w) s = .next t) :
    Inv block t := by
  rcases decodeCommand_cases w with ⟨b, hw⟩ | ⟨data, hw⟩ | hw <;> rw [hw] at ht
  · rw [exec_push] at ht
    exact inv_push h ht
  · rw [exec_flush] at ht
    cases ht
    exact inv_flush h
  · rw [exec_reserved] at ht
    cases ht
    exact inv_emit_bare h .illegalCommand

/-- Settles O20, by the host's next move. -/
theorem stepKeepsInvariant : Obligations.StepKeepsInvariant := by
  intro s t h ht
  match hin : s.input with
  | [] =>
    rw [step_pause hin] at ht
    cases ht
    exact h
  | .rx w :: rest =>
    rw [step_rx hin] at ht
    exact inv_exec_decodeCommand (inv_takeMove h rest) ht
  | .tx c i p :: rest =>
    rw [step_tx hin, exec_txFrame] at ht
    cases ht
    exact inv_txReport (inv_takeMove h rest) _
  | .rst presented :: rest =>
    rw [step_rst hin] at ht
    cases ht
    exact inv_applyReset (inv_takeMove h rest)
  | .bufRead k :: rest =>
    rw [step_bufRead hin] at ht
    cases ht
    exact inv_consumerRead (inv_takeMove h rest) k

/-- Settles O19: at reset RX seeks with cleared registers, nothing is stored and nothing is on offer. -/
theorem invariantAtReset : Obligations.InvariantAtReset :=
  inv_of_seeking (.inl rfl) ⟨rfl, rfl, rfl, rfl, rfl, rfl, rfl⟩
    { form := reset_buf_wf
      bound := fun _ hc => nomatch hc
      window := fun _ _ he => nomatch he }

/-! ## Transmit results and state codes (10_state.md R20, R27) -/

/-- Settles O26: the result reported is `txOutcome` of the operands. -/
theorem txResultIgnoresState : Obligations.TxResultIgnoresState := by
  intro c i p s₁ s₂ t₁ t₂ h₁ h₂
  rw [exec_txFrame] at h₁ h₂
  cases h₁
  cases h₂
  simp only [txReport_txResult]

/-- A code gives no state exactly from 9 on (R20). -/
theorem ofCode_eq_none_iff : ∀ c : BitVec 4, RxState.ofCode c = none ↔ 9 ≤ c.toNat := by decide

/-- Settles O39: the codes by evaluation, their inverse by `ofCode_code`. -/
theorem stateCodes : Obligations.StateCodes := ⟨rfl, ofCode_code, ofCode_eq_none_iff⟩

end Sys2Proof.Proofs

namespace Sys2Proof.Proofs

open Machine

/-! ## The RX instructions by the rules they run (30_encoding.md R69, 41_rx_parser.md R80) -/

/-- The rule of `PUSH b` for a state of the parser, run whatever the state register holds: what a row of the key table
runs, and what `PUSH` runs at the state register's own state. -/
def pushRule (cfg : Config) (st : RxState) (b : Byte) : State → Host.Outcome State Fault Refusal :=
  match st with
  | .seekSync1 => pushSeekSync1 cfg b
  | .seekSync2 => pushSeekSync2 cfg b
  | .readClass => pushReadClass b
  | .readId => pushReadId b
  | .readLenLow => pushReadLenLow b
  | .readLenHigh => pushReadLenHigh cfg b
  | .readPayload => pushReadPayload cfg b
  | .readChecksumA => pushReadChecksumA b
  | .readChecksumB => pushReadChecksumB cfg b

theorem push_eq_pushRule (cfg : Config) (b : Byte) (s : State) : push cfg b s = pushRule cfg s.st b s := by
  unfold push pushRule
  cases s.st <;> rfl

/-- An RX instruction flushes, reports a reserved word, or runs the rule of one parser state, the same from every state
with this state register. The rule of `ReadChecksumB` is run by its own row and by `PUSH` in that state only. -/
theorem exec_rx_cases {i : Instr} (hrx : isRx i = true) (s : State) :
    (∀ t, exec i t = .next (emit .silent (idle t))) ∨
    (∀ t, exec i t = .next (emit (.bare .illegalCommand) t)) ∨
    ∃ st b, (∀ t, t.st = s.st → exec i t = pushRule block st b t) ∧
      (st = .readChecksumB → i = .pushReadChecksumB b ∨ (i = .push b ∧ s.st = .readChecksumB)) := by
  cases i with
  | flush data => exact .inl (exec_flush data)
  | reserved w => exact .inr (.inl (exec_reserved w))
  | push b =>
    exact .inr (.inr ⟨s.st, b, fun t ht => by rw [exec_push, push_eq_pushRule, ht], fun hst => .inr ⟨rfl, hst⟩⟩)
  | pushSeekSync1Sync => exact .inr (.inr ⟨.seekSync1, block.sync1, fun _ _ => rfl, nofun⟩)
  | pushSeekSync1Other b => exact .inr (.inr ⟨.seekSync1, b, fun _ _ => rfl, nofun⟩)
  | pushSeekSync2Sync => exact .inr (.inr ⟨.seekSync2, block.sync2, fun _ _ => rfl, nofun⟩)
  | pushSeekSync2Other b => exact .inr (.inr ⟨.seekSync2, b, fun _ _ => rfl, nofun⟩)
  | pushReadClass b => exact .inr (.inr ⟨.readClass, b, fun _ _ => rfl, nofun⟩)
  | pushReadId b => exact .inr (.inr ⟨.readId, b, fun _ _ => rfl, nofun⟩)
  | pushReadLenLow b => exact .inr (.inr ⟨.readLenLow, b, fun _ _ => rfl, nofun⟩)
  | pushReadLenHigh b => exact .inr (.inr ⟨.readLenHigh, b, fun _ _ => rfl, nofun⟩)
  | pushReadPayload b => exact .inr (.inr ⟨.readPayload, b, fun _ _ => rfl, nofun⟩)
  | pushReadChecksumA b => exact .inr (.inr ⟨.readChecksumA, b, fun _ _ => rfl, nofun⟩)
  | pushReadChecksumB b => exact .inr (.inr ⟨.readChecksumB, b, fun _ _ => rfl, fun _ => .inl rfl⟩)
  | txFrame c m p => cases hrx

/-! ## RX and TX are independent (20_memory.md R49, 70_reset_and_hazards.md R180) -/

theorem lengthStage_txReport (cfg : Config) (b : Byte) (r : TxResult) (s : State) :
    lengthStage cfg b (txReport r s) = txReport r (lengthStage cfg b s) := by
  simp only [lengthStage_eq, apply_ite (txReport r)]
  rfl

theorem payloadStage_txReport (b : Byte) (r : TxResult) (s : State) :
    payloadStage b (txReport r s) = txReport r (payloadStage b s) := by
  simp only [payloadStage_eq]
  rfl

theorem raiseReject_txReport (cfg : Config) (k : EventKind) (b : Byte) (r : TxResult) (s : State) :
    raiseReject cfg k b (txReport r s) = txReport r (raiseReject cfg k b s) := by
  simp only [raiseReject_eq]
  rfl

/-- A rule of the parser neither reads nor writes what a transmit result writes. -/
theorem pushRule_txReport {cfg : Config} {st : RxState} {b : Byte} {s t : State} (r : TxResult)
    (h : pushRule cfg st b s = .next t) : pushRule cfg st b (txReport r s) = .next (txReport r t) := by
  cases st with
  | seekSync1 | readClass | readId | readLenLow | readChecksumA =>
    cases h
    rfl
  | seekSync2 =>
    simp only [pushRule, pushSeekSync2_eq] at h ⊢
    cases h
    rw [apply_ite (txReport r)]
    rfl
  | readLenHigh =>
    cases h
    rw [← lengthStage_txReport]
    rfl
  | readPayload =>
    obtain ⟨hi, rfl⟩ := pushReadPayload_next h
    rw [← payloadStage_txReport]
    exact pushReadPayload_inside b hi
  | readChecksumB =>
    cases h
    rw [apply_ite (txReport r), ← raiseReject_txReport]
    rfl

/-- An RX instruction completes alike before and after a transmit result is reported. -/
theorem exec_rx_txReport {i : Instr} {s t : State} (hrx : isRx i = true) (r : TxResult) (h : exec i s = .next t) :
    exec i (txReport r s) = .next (txReport r t) := by
  rcases exec_rx_cases hrx s with hflush | hreserved | ⟨st, b, hrule, -⟩
  · rw [hflush] at h ⊢
    cases h
    rfl
  · rw [hreserved] at h ⊢
    cases h
    rfl
  · rw [hrule _ rfl] at h
    rw [hrule _ (txReport_st r s)]
    exact pushRule_txReport r h

/-- Settles O25: `TX_FRAME` reports a result that does not depend on the state, and RX commutes with the report. -/
theorem rxAndTxCommute : Obligations.RxAndTxCommute := by
  intro i c m p s a b hrx ha hb
  rw [exec_txFrame] at hb ⊢
  cases hb
  exact (exec_rx_txReport hrx (txOutcome block c m p) ha).symm

/-! ## The read window (20_memory.md R47) -/

/-- While a payload is on offer the window has `ev_len` bytes. -/
theorem windowLength_of_payload {s : State} {e : Event} {p : List Byte} (he : s.rxEvent = some e)
    (hp : e.payload = some p) : windowLength s = e.evLen.toNat := by
  simp [windowLength, he, hp]

/-- The window ends no later than any payload on offer does. -/
theorem windowLength_le {s : State} {n : Nat}
    (h : ∀ e p, s.rxEvent = some e → e.payload = some p → e.evLen.toNat ≤ n) : windowLength s ≤ n := by
  unfold windowLength
  split
  next e he =>
    split
    next hsome =>
      obtain ⟨p, hp⟩ := Option.isSome_iff_exists.mp hsome
      exact h e p he hp
    next => exact Nat.zero_le n
  next => exact Nat.zero_le n

/-- An event that uses no field offers no payload. -/
theorem windowLength_of_bare {s : State} {k : EventKind} (h : s.rxEvent = some (.bare k)) : windowLength s = 0 := by
  simp [windowLength, h, Event.bare]

/-- Under the invariant the window lies inside the buffer. -/
theorem windowLength_le_pCap {cfg : Config} {s : State} (h : Inv cfg s) : windowLength s ≤ cfg.pCap.val :=
  windowLength_le fun e p he hp => (h.window e p he hp).1

theorem consumerRead_inside {k : Nat} {s : State} (h : k < windowLength s) :
    consumerRead k s = { s with readData := some (bufByte s.buf k), freeCount := s.freeCount + 1 } := by
  rw [consumerRead, if_pos h]

theorem consumerRead_outside {k : Nat} {s : State} (h : windowLength s ≤ k) :
    consumerRead k s = { s with readData := some (Config.freeByte s.freeCount), freeCount := s.freeCount + 1 } := by
  rw [consumerRead, if_neg (Nat.not_lt.mpr h)]

/-- A byte of the payload view is a byte of the buffer below the view's length. -/
theorem payloadView_getElem?_eq_some {m : List Host.Cell} {n : U16} {k : Nat} {v : Byte}
    (h : (payloadView m n)[k]? = some v) : k < n.toNat ∧ bufByte m k = v := by
  have hk : k < n.toNat := by
    obtain ⟨hk, -⟩ := List.getElem?_eq_some_iff.mp h
    rwa [payloadView_length] at hk
  rw [payloadView_getElem? m n hk] at h
  exact ⟨hk, Option.some.inj h⟩

/-- Settles O46: the invariant makes the payload on offer the buffer's own bytes, and the window decides the rest. -/
theorem payloadReadWindow : Obligations.PayloadReadWindow := by
  refine fun cfg k s => ⟨fun e p v hinv he hp hv => ?_, fun h => consumerRead_outside (windowLength_le h),
    fun hinv hk => consumerRead_outside ((windowLength_le_pCap hinv).trans hk)⟩
  obtain ⟨-, rfl⟩ := hinv.window e p he hp
  obtain ⟨hk, rfl⟩ := payloadView_getElem?_eq_some hv
  rw [← windowLength_of_payload he hp] at hk
  exact consumerRead_inside hk

/-- The stage that ends R87 emits `NONE` or a bare reject. -/
theorem lengthStage_rxEvent_bare (cfg : Config) (b : Byte) (s : State) :
    ∃ k, (lengthStage cfg b s).rxEvent = some (.bare k) := by
  rw [lengthStage_eq]
  split
  · exact ⟨.rejectOversize, rfl⟩
  · exact ⟨.quiet, rfl⟩

/-- Short of the last checksum byte no rule of the parser emits an event with a field (R92). -/
theorem pushRule_rxEvent_bare {cfg : Config} {st : RxState} {b : Byte} {s t : State} (hst : st ≠ .readChecksumB)
    (h : pushRule cfg st b s = .next t) : ∃ k, t.rxEvent = some (.bare k) := by
  cases st with
  | seekSync1 | seekSync2 | readClass | readId | readLenLow | readChecksumA =>
    cases h
    exact ⟨.quiet, rfl⟩
  | readLenHigh =>
    cases h
    exact lengthStage_rxEvent_bare cfg b _
  | readPayload =>
    obtain ⟨-, rfl⟩ := pushReadPayload_next h
    exact ⟨.quiet, rfl⟩
  | readChecksumB => exact absurd rfl hst

/-- Settles O47: every rule but that of `ReadChecksumB` emits a bare event, and a bare event offers no payload. -/
theorem commandEndsReadWindow : Obligations.CommandEndsReadWindow := by
  intro i s t hrx h hrow hpush
  rcases exec_rx_cases hrx s with hflush | hreserved | ⟨st, b, hrule, hlast⟩
  · rw [hflush] at h
    cases h
    exact windowLength_of_bare (emit_rxEvent .silent _)
  · rw [hreserved] at h
    cases h
    exact windowLength_of_bare (emit_rxEvent _ _)
  · have hst : st ≠ .readChecksumB := fun hst => (hlast hst).elim (hrow b) (hpush b)
    rw [hrule s rfl] at h
    obtain ⟨k, hk⟩ := pushRule_rxEvent_bare hst h
    exact windowLength_of_bare hk

/-! ## The buffer's address space (20_memory.md R40) -/

/-- R88 with an index that does not exist: the stop of `BufWrite` is the stop of the rule. -/
theorem pushReadPayload_outside {cfg : Config} (b : Byte) {s : State} (h : cfg.pCap.val ≤ s.cnt.toNat) :
    pushReadPayload cfg b s = .fault .bufferIndexOutOfRange := by
  rw [pushReadPayload, bufWrite_outside b s h]
  rfl

/-- Settles O6: the row runs R88, whose `BufWrite` is outside the buffer. -/
theorem pushReadPayloadOutsideBufferFaults : Obligations.PushReadPayloadOutsideBufferFaults :=
  fun b _ h => pushReadPayload_outside b h

end Sys2Proof.Proofs

namespace Sys2Proof.Proofs

open Machine

/-! ## Command words and keys (30_encoding.md R65, R66, R69) -/

/-- Bit 9 of a command word is the upper selector bit: what tells a reserved word from the others. -/
theorem getLsbD_nine_cmdWord (op : BitVec 2) (data : Byte) : (cmdWord op data).getLsbD 9 = op.getLsbD 1 := by
  rw [cmdWord, BitVec.getLsbD_append, if_neg (by decide)]

theorem decodeCommand_of_reserved {w : CmdWord} (h : w.getLsbD 9 = true) : decodeCommand w = .reserved w := by
  rw [← cmdWord_op_data w] at h ⊢
  rw [getLsbD_nine_cmdWord] at h
  rcases selector_cases (cmdOp w) with hop | hop | hop
  · simp [hop] at h
  · simp [hop] at h
  · exact decodeCommand_reserved hop _

theorem decodeCommand_wellFormed (cfg : Config) (w : CmdWord) : (decodeCommand w).wellFormed cfg = true := by
  rw [← cmdWord_op_data w]
  rcases selector_cases (cmdOp w) with hop | hop | hop
  · rw [hop, decodeCommand_push]
    rfl
  · rw [hop, decodeCommand_flush]
    rfl
  · rw [decodeCommand_reserved hop, Instr.wellFormed, getLsbD_nine_cmdWord]
    rcases hop with hop | hop <;> simp [hop]

theorem pushRow_wellFormed (cfg : Config) (st : RxState) (b : Byte) : (pushRow cfg st b).wellFormed cfg = true := by
  cases st
  case seekSync1 | seekSync2 =>
    rw [pushRow]
    split
    next => rfl
    next hb => simpa [Instr.wellFormed] using hb
  all_goals rfl

theorem encode_pushRow (cfg : Config) (st : RxState) (b : Byte) :
    encode cfg (pushRow cfg st b) = some (.key14 (keyOf st.code (cmdWord 0 b))) := by
  cases st
  case seekSync1 | seekSync2 =>
    rw [pushRow]
    split
    next hb => rw [hb]; rfl
    next => rfl
  all_goals rfl

/-- The well-formed instructions by the three formats of their encodings: a command word, the row of a pushed byte in a
state, a transaction. -/
theorem wellFormed_cases {cfg : Config} {i : Instr} (h : i.wellFormed cfg = true) :
    (∃ w, decodeCommand w = i ∧ encode cfg i = some (.cmd10 w)) ∨ (∃ st b, pushRow cfg st b = i) ∨
      ∃ c m p, i = .txFrame c m p := by
  cases i with
  | push b => exact .inl ⟨_, decodeCommand_push b, rfl⟩
  | flush data => exact .inl ⟨_, decodeCommand_flush data, rfl⟩
  | reserved w => exact .inl ⟨w, decodeCommand_of_reserved h, rfl⟩
  | pushSeekSync1Sync => exact .inr (.inl ⟨.seekSync1, cfg.sync1, if_pos rfl⟩)
  | pushSeekSync1Other b => exact .inr (.inl ⟨.seekSync1, b, if_neg (by simpa [Instr.wellFormed] using h)⟩)
  | pushSeekSync2Sync => exact .inr (.inl ⟨.seekSync2, cfg.sync2, if_pos rfl⟩)
  | pushSeekSync2Other b => exact .inr (.inl ⟨.seekSync2, b, if_neg (by simpa [Instr.wellFormed] using h)⟩)
  | pushReadClass b => exact .inr (.inl ⟨.readClass, b, rfl⟩)
  | pushReadId b => exact .inr (.inl ⟨.readId, b, rfl⟩)
  | pushReadLenLow b => exact .inr (.inl ⟨.readLenLow, b, rfl⟩)
  | pushReadLenHigh b => exact .inr (.inl ⟨.readLenHigh, b, rfl⟩)
  | pushReadPayload b => exact .inr (.inl ⟨.readPayload, b, rfl⟩)
  | pushReadChecksumA b => exact .inr (.inl ⟨.readChecksumA, b, rfl⟩)
  | pushReadChecksumB b => exact .inr (.inl ⟨.readChecksumB, b, rfl⟩)
  | txFrame c m p => exact .inr (.inr ⟨c, m, p, rfl⟩)

/-- The state a code stands for has that code. -/
theorem code_of_ofCode {c : BitVec 4} {st : RxState} (h : RxState.ofCode c = some st) : st.code = c := by
  simpa using List.find?_some h

theorem exists_key_fields (k : Key) : ∃ c op d, k = keyOf c (cmdWord op d) :=
  ⟨keyState k, cmdOp (keyCommand k), cmdData (keyCommand k), by rw [cmdWord_op_data, keyOf_state_command]⟩

/-- A key the table selects is a byte pushed in the state of its code, or a command that is no `PUSH`. -/
theorem decodeKey_ok_cases {cfg : Config} {k : Key} {i : Instr} (h : decodeKey cfg k = .ok i) :
    (∃ st b, k = keyOf st.code (cmdWord 0 b) ∧ i = pushRow cfg st b) ∨
      (cmdOp (keyCommand k) ≠ 0 ∧ i = decodeCommand (keyCommand k)) := by
  obtain ⟨c, op, d, rfl⟩ := exists_key_fields k
  rw [decodeKey_fields] at h
  simp only [keyCommand_keyOf, cmdOp_cmdWord]
  rcases selector_cases op with rfl | rfl | hop
  · left
    cases hst : RxState.ofCode c with
    | none => simp [hst] at h
    | some st =>
      obtain rfl : st.code = c := code_of_ofCode hst
      exact ⟨st, d, rfl, by simpa [eq_comm] using h⟩
  · right
    rw [decodeCommand_flush]
    exact ⟨by decide, by simpa [eq_comm] using h⟩
  · right
    rw [decodeCommand_reserved hop]
    rcases hop with rfl | rfl <;> exact ⟨by decide, by simpa [eq_comm] using h⟩

theorem decodeKey_wellFormed {cfg : Config} {k : Key} {i : Instr} (h : decodeKey cfg k = .ok i) :
    i.wellFormed cfg = true := by
  rcases decodeKey_ok_cases h with ⟨st, b, -, rfl⟩ | ⟨-, rfl⟩
  · exact pushRow_wellFormed cfg st b
  · exact decodeCommand_wellFormed cfg _

/-- The only refusal of the table: no state has the key's code, and the selector is that of a `PUSH`. -/
theorem decodeKey_error_iff {cfg : Config} {k : Key} :
    decodeKey cfg k = .error .reservedStateCode ↔
      RxState.ofCode (keyState k) = none ∧ cmdOp (keyCommand k) = 0 := by
  obtain ⟨c, op, d, rfl⟩ := exists_key_fields k
  rw [decodeKey_fields, keyState_keyOf, keyCommand_keyOf, cmdOp_cmdWord]
  rcases selector_cases op with rfl | rfl | rfl | rfl
  · cases RxState.ofCode c <;> simp
  all_goals simp

/-- Settles O42: a refused key has no state, and a selected `PUSH` key is a row's own encoding. -/
theorem keyTableCovers : Obligations.KeyTableCovers := by
  refine fun cfg k => ⟨decodeKey_error_iff.trans (and_congr_left' (ofCode_eq_none_iff _)),
    fun i h => ⟨decodeKey_wellFormed h, fun hop => ?_⟩⟩
  rcases decodeKey_ok_cases h with ⟨st, b, rfl, rfl⟩ | ⟨hne, -⟩
  · exact encode_pushRow cfg st b
  · exact absurd hop hne

/-- Settles O17: a step's key decodes to what the command does, and whatever the table gives is well-formed. -/
theorem keyDispatchAgreesWithCommand : Obligations.KeyDispatchAgreesWithCommand := by
  intro w s
  obtain ⟨i, hi, hexec⟩ := decode_dispatchKey w s
  exact ⟨i, hi, decodeKey_wellFormed hi, hexec s rfl⟩

/-! ## Frames (30_encoding.md R60, R61, 45_tx_framer.md R140) -/

/-- A frame byte by byte, header first. -/
theorem frame_eq_cons (cfg : Config) (c i : Byte) (p : List Byte) :
    frame cfg c i p =
      cfg.sync1 :: cfg.sync2 :: c :: i :: lowByte (BitVec.ofNat 16 p.length) :: highByte (BitVec.ofNat 16 p.length) ::
        (p ++ [(ck (coveredBytes c i p)).1, (ck (coveredBytes c i p)).2]) := rfl

/-- A payload length within 16 bits is the length field (R60). -/
theorem toNat_ofNat_length {p : List Byte} (h : p.length ≤ 65535) : (BitVec.ofNat 16 p.length).toNat = p.length := by
  rw [BitVec.toNat_ofNat, Nat.mod_eq_of_lt (by omega)]

theorem decodeFrame_frame (cfg : Config) (c i : Byte) {p : List Byte} (h : p.length ≤ 65535) :
    decodeFrame cfg (frame cfg c i p) = .ok (.txFrame c i p) := by
  have hck : ck ([c, i, lowByte (BitVec.ofNat 16 p.length), highByte (BitVec.ofNat 16 p.length)] ++ p) =
      ck (coveredBytes c i p) := rfl
  rw [frame_eq_cons, decodeFrame]
  simp only [u16OfBytes_low_high, toNat_ofNat_length h, List.take_left', List.drop_left', hck]
  simp

/-- Length bytes that say how long the payload is are those of its frame. -/
theorem coveredBytes_of_length {p : List Byte} {lo hi : Byte} (h : p.length = (u16OfBytes lo hi).toNat) (c i : Byte) :
    coveredBytes c i p = [c, i, lo, hi] ++ p := by
  simp [coveredBytes, frameHeader, h]

/-- Bytes that decode are the frame of the transaction they decode to. -/
theorem decodeFrame_ok {cfg : Config} {bytes : List Byte} {j : Instr} (h : decodeFrame cfg bytes = .ok j) :
    ∃ c i p, j = .txFrame c i p ∧ p.length ≤ 65535 ∧ bytes = frame cfg c i p := by
  unfold decodeFrame at h
  split at h
  next s1 s2 c i lo hi rest =>
    split at h
    · cases h
    next hsync =>
      obtain ⟨rfl, rfl⟩ : s1 = cfg.sync1 ∧ s2 = cfg.sync2 := by simpa using hsync
      dsimp only at h
      split at h
      next a b hdrop =>
        split at h
        next hck =>
          cases h
          have hlen : (rest.take (u16OfBytes lo hi).toNat).length = (u16OfBytes lo hi).toNat := by
            have := congrArg List.length hdrop
            simp only [List.length_drop, List.length_cons, List.length_nil] at this
            rw [List.length_take]
            omega
          refine ⟨c, i, _, rfl, by have := (u16OfBytes lo hi).isLt; omega, ?_⟩
          rw [frame, coveredBytes_of_length hlen, ← eq_of_beq hck]
          simpa using (hdrop ▸ List.take_append_drop _ rest).symm
        · cases h
      · cases h
  · cases h

/-- Settles O43: the decoder has checked the sync pair, the length and the checksum, so nothing but the frame passes. -/
theorem decodedFrameIsTheFrame : Obligations.DecodedFrameIsTheFrame := fun _ _ _ => decodeFrame_ok

/-- Only a transaction whose length no field can hold has no encoding (R141). -/
theorem encode_eq_none_iff {cfg : Config} {i : Instr} :
    encode cfg i = none ↔ ∃ c m p, i = .txFrame c m p ∧ 65535 < p.length := by
  cases i <;> simp [encode]

/-- Whatever an encoding of a well-formed instruction is, it decodes to the instruction. -/
theorem decode_encode {cfg : Config} {i : Instr} {e : Encoding} (hwf : i.wellFormed cfg = true)
    (h : encode cfg i = some e) : decode cfg e = .ok i := by
  rcases wellFormed_cases hwf with ⟨w, rfl, hw⟩ | ⟨st, b, rfl⟩ | ⟨c, m, p, rfl⟩
  · rw [hw] at h
    cases h
    rfl
  · rw [encode_pushRow] at h
    cases h
    exact decodeKey_push cfg st b
  · rw [encode] at h
    split at h
    next hp =>
      cases h
      exact decodeFrame_frame cfg c m hp
    · cases h

/-- Settles O41, by the three formats. -/
theorem decodeEncodeRoundTrip : Obligations.DecodeEncodeRoundTrip :=
  fun _ _ hwf => ⟨fun _ => decode_encode hwf, encode_eq_none_iff⟩

end Sys2Proof.Proofs

namespace Sys2Proof.Proofs

open Machine

/-! ## Events (30_encoding.md R67, R68) -/

/-- The demultiplexer's event uses the fields of its kind, and offers the payload it was given. -/
theorem demux_wellFormed (r : Registry) (c i : Byte) {n : U16} {p : List Byte} (hp : p.length = n.toNat) :
    (demux r c i n p).wellFormed := by
  unfold demux
  split
  · exact ⟨rfl, rfl, p, rfl, hp⟩
  · split
    · exact ⟨p, rfl, hp⟩
    · exact ⟨rfl, rfl⟩

theorem acceptEvent_wellFormed (cfg : Config) (s : State) : (acceptEvent cfg s).wellFormed :=
  demux_wellFormed _ _ _ (payloadView_length s.buf s.len)

/-- A rule of the parser that answers a next state leaves a well-formed record in it: `NONE` short of the last checksum byte,
the length reject apart, and the frame's outcome there. -/
theorem pushRule_emits {cfg : Config} {st : RxState} {b : Byte} {s t : State} (h : pushRule cfg st b s = .next t) :
    ∃ e, t.rxEvent = some e ∧ e.wellFormed := by
  cases st with
  | seekSync1 | seekSync2 | readClass | readId | readLenLow | readChecksumA =>
    cases h
    exact ⟨.silent, rfl, rfl⟩
  | readLenHigh =>
    cases h
    rw [lengthStage_eq]
    split
    · exact ⟨.bare .rejectOversize, rfl, rfl⟩
    · exact ⟨.silent, rfl, rfl⟩
  | readPayload =>
    obtain ⟨-, rfl⟩ := pushReadPayload_next h
    exact ⟨.silent, rfl, rfl⟩
  | readChecksumB =>
    cases h
    split
    · exact ⟨acceptEvent cfg s, rfl, acceptEvent_wellFormed cfg s⟩
    · rw [rejectChecksum_eq]
      exact ⟨.bare .rejectChecksum, rfl, rfl⟩

/-- Settles O27: a flush, a reserved word and every rule of the parser emit a well-formed record. -/
theorem rxStepEmitsOneRecord : Obligations.RxStepEmitsOneRecord := by
  intro i s t hrx h
  rcases exec_rx_cases hrx s with hflush | hreserved | ⟨st, b, hrule, -⟩
  · rw [hflush] at h
    cases h
    exact ⟨.silent, rfl, rfl⟩
  · rw [hreserved] at h
    cases h
    exact ⟨.bare .illegalCommand, rfl, rfl⟩
  · rw [hrule s rfl] at h
    exact pushRule_emits h

/-- Settles O29: the codes of the table by evaluation, code 7 event by event. -/
theorem eventCodes : Obligations.EventCodes := by
  refine ⟨rfl, rfl, rfl, rfl, rfl, rfl, rfl, fun k => ?_, fun _ => rfl, rfl⟩
  cases k <;> decide

/-! ## The registry ROM word (30_encoding.md R71) -/

/-- The fields of a ROM word, bit 55 first: class, ID, rule bit, reserved bits, `e_a`, `e_w` (R71). -/
def romWord (c i : Byte) (trailing : BitVec 1) (reserved : BitVec 7) (a w : U16) : RomWord :=
  c ++ i ++ trailing ++ reserved ++ a ++ w

section RomFields

variable (c i : Byte) (f : BitVec 1) (r : BitVec 7) (a w : U16)

theorem romWord_width : (romWord c i f r a w).extractLsb' 0 16 = w := BitVec.extractLsb'_append_eq_right

theorem romWord_fixedPart : (romWord c i f r a w).extractLsb' 16 16 = a := by
  rw [romWord, BitVec.extractLsb'_append_eq_of_le (by decide)]
  exact BitVec.extractLsb'_append_eq_right

theorem romWord_reserved : (romWord c i f r a w).extractLsb' 32 7 = r := by
  rw [romWord]
  iterate 2 rw [BitVec.extractLsb'_append_eq_of_le (by decide)]
  exact BitVec.extractLsb'_append_eq_right

theorem romWord_rule : (romWord c i f r a w).getLsbD 39 = f.getLsbD 0 := by
  rw [romWord]
  iterate 3 rw [BitVec.getLsbD_append, if_neg (by decide)]
  rw [BitVec.getLsbD_append, if_pos (by decide)]

theorem romWord_id : (romWord c i f r a w).extractLsb' 40 8 = i := by
  rw [romWord]
  iterate 4 rw [BitVec.extractLsb'_append_eq_of_le (by decide)]
  exact BitVec.extractLsb'_append_eq_right

theorem romWord_class : (romWord c i f r a w).extractLsb' 48 8 = c := by
  rw [romWord]
  iterate 4 rw [BitVec.extractLsb'_append_eq_of_le (by decide)]
  exact BitVec.extractLsb'_append_eq_left

end RomFields

/-- A word is its fields. -/
theorem romWord_of_fields (w : RomWord) :
    romWord (w.extractLsb' 48 8) (w.extractLsb' 40 8) (w.extractLsb' 39 1) (w.extractLsb' 32 7) (w.extractLsb' 16 16)
      (w.extractLsb' 0 16) = w := by
  rw [romWord, BitVec.extractLsb'_append_extractLsb'_eq_extractLsb' (show 48 = 40 + 8 from rfl),
    BitVec.extractLsb'_append_extractLsb'_eq_extractLsb' (show 40 = 39 + 1 from rfl),
    BitVec.extractLsb'_append_extractLsb'_eq_extractLsb' (show 39 = 32 + 7 from rfl),
    BitVec.extractLsb'_append_extractLsb'_eq_extractLsb' (show 32 = 16 + 16 from rfl)]
  exact BitVec.extractLsb'_append_extractLsb'

theorem exists_romWord_fields (word : RomWord) : ∃ c i f r a w, word = romWord c i f r a w :=
  ⟨_, _, _, _, _, _, (romWord_of_fields word).symm⟩

theorem ruleBit_cases : ∀ f : BitVec 1, f = 0 ∨ f = 1 := by decide

/-- The decoder on the fields of a word. -/
theorem decodeRomWord_romWord (c i : Byte) (f : BitVec 1) (r : BitVec 7) (a w : U16) :
    decodeRomWord (romWord c i f r a w) =
      if r ≠ 0 then .error .reservedBits
      else if f.getLsbD 0 = true then if w = 0 then .error .zeroWidth else .ok ⟨c, i, .trailing a w⟩
      else if w ≠ 0 then .error .fixedWithWidth else .ok ⟨c, i, .fixed a⟩ := by
  simp only [decodeRomWord, romWord_width, romWord_fixedPart, romWord_reserved, romWord_rule, romWord_id, romWord_class,
    bne_iff_ne, beq_iff_eq]

/-- A legal entry decodes from its word. -/
theorem decodeRomWord_encodeRomWord {e : RegEntry} (h : e.eRule.legal = true) : decodeRomWord (encodeRomWord e) = .ok e := by
  obtain ⟨c, i, rule⟩ := e
  cases rule with
  | fixed L =>
    have hword : encodeRomWord ⟨c, i, .fixed L⟩ = romWord c i 0 0 L 0 := rfl
    rw [hword, decodeRomWord_romWord]
    rfl
  | trailing P W =>
    have hword : encodeRomWord ⟨c, i, .trailing P W⟩ = romWord c i 1 0 P W := rfl
    have hW : W ≠ 0 := by simpa [LengthRule.legal] using h
    rw [hword, decodeRomWord_romWord, if_neg hW]
    rfl

/-- A word that decodes has reserved bits 0, and 0 for the field that `Fixed` does not use: it is its entry's word. -/
theorem encodeRomWord_of_decodeRomWord {word : RomWord} {e : RegEntry} (h : decodeRomWord word = .ok e) :
    encodeRomWord e = word := by
  obtain ⟨c, i, f, r, a, w, rfl⟩ := exists_romWord_fields word
  rw [decodeRomWord_romWord] at h
  split at h
  · cases h
  next hr =>
    obtain rfl : r = 0 := not_not.mp hr
    rcases ruleBit_cases f with rfl | rfl
    · rw [if_neg (by decide)] at h
      split at h <;> cases h
      next hw => rw [not_not.mp hw]; rfl
    · rw [if_pos (by decide)] at h
      split at h <;> cases h
      rfl

/-- Which words are refused (R71). -/
theorem exists_decodeRomWord_error_iff {word : RomWord} :
    (∃ x, decodeRomWord word = .error x) ↔
      (word.extractLsb' 32 7 ≠ 0 ∨ (word.getLsbD 39 = false ∧ word.extractLsb' 0 16 ≠ 0) ∨
        (word.getLsbD 39 = true ∧ word.extractLsb' 0 16 = 0)) := by
  obtain ⟨c, i, f, r, a, w, rfl⟩ := exists_romWord_fields word
  rw [decodeRomWord_romWord, romWord_reserved, romWord_rule, romWord_width]
  by_cases hr : r = 0#7
  · by_cases hw : w = 0#16 <;> rcases ruleBit_cases f with rfl | rfl <;> simp [hr, hw]
  · simp [hr]

/-- Settles O34, on the fields of a word. -/
theorem romWordRoundTrip : Obligations.RomWordRoundTrip :=
  ⟨fun _ => decodeRomWord_encodeRomWord, fun _ _ h => ⟨encodeRomWord_of_decodeRomWord h, decodeRomWord_legal h⟩,
    fun _ => exists_decodeRomWord_error_iff⟩

/-! ## Command words as numbers (30_encoding.md R65, R66) -/

theorem cmdOp_toNat (w : CmdWord) : (cmdOp w).toNat = w.toNat / 256 := by
  have := w.isLt
  simp [cmdOp, Nat.shiftRight_eq_div_pow]
  omega

theorem cmdData_eq_ofNat (w : CmdWord) : cmdData w = BitVec.ofNat 8 (w.toNat % 256) := by
  apply BitVec.eq_of_toNat_eq
  simp [cmdData]

/-- Settles O40: the selector is the word's quotient by 256, the data its remainder. -/
theorem commandSelectorTable : Obligations.CommandSelectorTable := by
  refine fun w => ⟨fun h => ?_, fun h => ?_, fun h => decodeCommand_of_reserved ?_⟩
  · have hop : cmdOp w = 0 := BitVec.eq_of_toNat_eq ((cmdOp_toNat w).trans h)
    rw [← cmdData_eq_ofNat, ← decodeCommand_push, ← hop, cmdWord_op_data]
  · have hop : cmdOp w = 1 := BitVec.eq_of_toNat_eq ((cmdOp_toNat w).trans h)
    rw [← cmdData_eq_ofNat, ← decodeCommand_flush, ← hop, cmdWord_op_data]
  · change w.msb = true
    rw [BitVec.msb_eq_decide, decide_eq_true_eq]
    omega

/-- Settles O44, by evaluation. -/
theorem sampleWordsDecode : Obligations.SampleWordsDecode := ⟨rfl, rfl, rfl, rfl, rfl, rfl, rfl, rfl⟩

/-! ## A step and a command line (30_encoding.md R69, R70, R73, R74) -/

/-- Settles O14: a word by the key the step forms, the other moves by their own laws. -/
theorem stepRunsDecodedInstruction : Obligations.StepRunsDecodedInstruction := by
  refine ⟨fun s w rest i hin hi _ => ?_, fun _ _ _ _ _ => step_tx, fun _ _ _ => step_bufRead⟩
  simp [step, fetch, hin, dispatchKey, hi]

/-- A pushed byte is the word of its value (R65, R73). -/
theorem cmdWord_zero (b : Byte) : cmdWord 0 b = b.setWidth 10 := by
  rw [BitVec.setWidth_eq_append (by decide)]
  rfl

theorem chunk_eq_map_setWidth (bytes : List Byte) : chunk bytes = bytes.map (fun b => .rx (b.setWidth 10)) := by
  simp only [chunk, cmdWord_zero]

/-- Settles O52: every line by its own expansion, a chunk byte by byte. -/
theorem assemblerExpansion : Obligations.AssemblerExpansion := by
  refine fun cfg => ⟨fun b => ⟨cmdWord 0 b, rfl, ?_⟩, rfl, fun _ => rfl, fun _ _ _ => rfl, fun bytes => ?_, fun c i p => ?_⟩
  · rw [cmdWord_zero, BitVec.toNat_setWidth_of_le (by decide)]
  · rw [assemble, chunk_eq_map_setWidth]
  · rw [assemble, chunk_eq_map_setWidth]
    split
    next h => rw [if_neg (by omega)]
    next h => rw [if_pos (by omega)]

/-! ## The layout of a frame (30_encoding.md R60 to R62) -/

theorem frame_length (cfg : Config) (c i : Byte) (p : List Byte) : (frame cfg c i p).length = p.length + 8 := by
  simp [frame_eq_cons]

/-- Settles O45, on the frame byte by byte: the covered bytes begin at offset 2. -/
theorem frameLayout : Obligations.FrameLayout := by
  intro cfg c i p hp
  have hlen := toNat_ofNat_length hp
  refine ⟨frame_length cfg c i p, rfl, ⟨_, _, rfl, ?_⟩, ?_, ?_⟩
  · rw [lowByte_toNat, highByte_toNat, hlen]
    omega
  · simp [frame_eq_cons]
  · have hcovered : ((frame cfg c i p).drop 2).take (p.length + 4) = coveredBytes c i p := by
      simp [frame, coveredBytes, frameHeader]
    have hsplit : frame cfg c i p = ([cfg.sync1, cfg.sync2] ++ coveredBytes c i p) ++
        [(ck (coveredBytes c i p)).1, (ck (coveredBytes c i p)).2] := rfl
    rw [hcovered, hsplit, List.drop_left']
    simp [coveredBytes, frameHeader]
    omega

end Sys2Proof.Proofs

namespace Sys2Proof.Proofs

open Machine

/-! ## Feeding a frame (41_rx_parser.md R82 to R90) -/

/-- Feeding two runs of bytes one after the other. -/
theorem feed_append {cfg : Config} {xs ys : List Byte} {s t u : State} {es fs : List (Option Event)}
    (hx : feed cfg xs s = some (t, es)) (hy : feed cfg ys t = some (u, fs)) :
    feed cfg (xs ++ ys) s = some (u, es ++ fs) := by
  induction xs generalizing s es with
  | nil =>
    cases hx
    exact hy
  | cons b bs ih =>
    rw [feed] at hx
    split at hx
    next v hv =>
      obtain ⟨⟨t', es'⟩, hbs, heq⟩ := Option.map_eq_some_iff.mp hx
      cases heq
      rw [List.cons_append, feed_cons _ hv, ih hbs]
      rfl
    · cases hx
    · cases hx

/-- RX with the sync pair and the four header bytes of a frame read, the bound on the length still to be tested (R83 to R87). -/
def headerRead (c i : Byte) (n : U16) (s : State) : State :=
  { s with st := .readLenHigh, cls := c, id := i, len := n, cnt := 0, ckA := (ck (frameHeader c i n)).1,
           ckB := (ck (frameHeader c i n)).2, rxEvent := some .silent }

theorem lenWithHigh_lenOfLow (n : U16) : lenWithHigh (highByte n) (lenOfLow (lowByte n)) = n := by
  rw [lenWithHigh, lowByte_lenOfLow, u16OfBytes_low_high]

theorem feed_sync {cfg : Config} {s : State} (hst : s.st = .seekSync1) :
    feed cfg [cfg.sync1, cfg.sync2] s =
      some ({ s with st := .readClass, ckA := 0, ckB := 0, cnt := 0, rxEvent := some .silent },
        [some .silent, some .silent]) := by
  have h1 : push cfg cfg.sync1 s = .next { s with st := .seekSync2, rxEvent := some .silent } := by
    simp [push, hst, pushSeekSync1, syncCheck, setSt, emit]
  rw [feed_cons _ h1, feed_cons (t := { s with st := .readClass, ckA := 0, ckB := 0, cnt := 0, rxEvent := some .silent })]
  · rfl
  · simp [push, pushSeekSync2_eq]

/-- The header of any frame is silent up to its last byte, which tests the length. -/
theorem feed_sync_header {cfg : Config} {s : State} (hst : s.st = .seekSync1) (c i : Byte) (n : U16) :
    feed cfg ([cfg.sync1, cfg.sync2] ++ frameHeader c i n) s =
      some (lengthStage cfg (highByte n) (headerRead c i n s),
        List.replicate 5 (some .silent) ++ [(lengthStage cfg (highByte n) (headerRead c i n s)).rxEvent]) := by
  have hheader : feed cfg (frameHeader c i n)
      { s with st := .readClass, ckA := 0, ckB := 0, cnt := 0, rxEvent := some .silent } =
        some (lengthStage cfg (highByte n) (headerRead c i n s),
          List.replicate 3 (some .silent) ++ [(lengthStage cfg (highByte n) (headerRead c i n s)).rxEvent]) := by
    have hread : headerRead c i n s =
        { headerRead c i n s with len := lenWithHigh (highByte n) (lenOfLow (lowByte n)) } := by
      rw [lenWithHigh_lenOfLow]
      rfl
    rw [hread]
    rfl
  rw [feed_append (feed_sync hst) hheader]
  rfl

/-- RX inside a frame whose length was accepted, with the payload bytes `q` received: they are counted, stored and summed. -/
structure Receiving (c i : Byte) (n : U16) (q : List Byte) (s : State) : Prop where
  st : s.st = if q.length = n.toNat then .readChecksumA else .readPayload
  cls : s.cls = c
  id : s.id = i
  len : s.len = n
  cnt : s.cnt.toNat = q.length
  view : payloadView s.buf s.cnt = q
  sums : ck (frameHeader c i n ++ q) = (s.ckA, s.ckB)

section Receiving

variable {cfg : Config} {c i : Byte} {n : U16} {q : List Byte} {s : State}

/-- A length that fits is accepted at the last header byte. -/
theorem receiving_lengthStage (hfits : n.toNat ≤ cfg.pCap.val) (b : Byte) :
    (lengthStage cfg b (headerRead c i n s)).rxEvent = some .silent ∧
      Receiving c i n [] (lengthStage cfg b (headerRead c i n s)) := by
  have hstage : lengthStage cfg b (headerRead c i n s) =
      { headerRead c i n s with st := if n = 0 then .readChecksumA else .readPayload, rxEvent := some .silent } := by
    rw [lengthStage_eq]
    exact if_neg (Nat.not_lt.mpr hfits)
  rw [hstage]
  refine ⟨rfl, ?_, rfl, rfl, rfl, rfl, payloadView_zero s.buf, ?_⟩
  · have hzero : n = 0 ↔ 0 = n.toNat := by rw [← BitVec.toNat_inj, eq_comm]; rfl
    simp only [hzero, List.length_nil]
  · rw [List.append_nil]
    rfl

/-- A payload byte short of the length is stored, and the last one leads to the trailer (R88). -/
theorem receiving_push (h : Receiving c i n q s) (hlt : q.length < n.toNat) (hfits : n.toNat ≤ cfg.pCap.val) (b : Byte) :
    ∃ t, push cfg b s = .next t ∧ t.rxEvent = some .silent ∧ Receiving c i n (q ++ [b]) t := by
  have hst : s.st = .readPayload := by rw [h.st, if_neg hlt.ne]
  have hmax : s.cnt.toNat < 65535 := by
    have := n.isLt
    have := h.cnt
    omega
  have hsucc : (s.cnt + 1).toNat = q.length + 1 := by
    rw [← h.cnt]
    exact BitVec.toNat_add_of_lt (by simpa using Nat.succ_lt_succ hmax)
  have hpush : push cfg b s = pushReadPayload cfg b s := by
    rw [push_eq_pushRule, hst]
    rfl
  refine ⟨_, hpush.trans (pushReadPayload_inside b (h.cnt ▸ hlt.trans_le hfits)), rfl, ?_⟩
  rw [payloadStage_eq]
  refine ⟨?_, h.cls, h.id, h.len, ?_, ?_, ?_⟩
  · have hlast : s.cnt + 1 = s.len ↔ q.length + 1 = n.toNat := by rw [← BitVec.toNat_inj, hsucc, h.len]
    simp only [hlast, hst, List.length_append, List.length_singleton]
  · rw [List.length_append]
    exact hsucc
  · simp only [payloadView_write_succ _ _ _ hmax, h.view]
  · rw [← List.append_assoc, ck_append_singleton, h.sums]
    rfl

/-- The rest of a payload is silent. -/
theorem receiving_feed (h : Receiving c i n q s) (hfits : n.toNat ≤ cfg.pCap.val) (p : List Byte)
    (hp : q.length + p.length ≤ n.toNat) :
    ∃ t, feed cfg p s = some (t, List.replicate p.length (some .silent)) ∧ Receiving c i n (q ++ p) t := by
  induction p generalizing q s with
  | nil => exact ⟨s, rfl, by rwa [List.append_nil]⟩
  | cons b bs ih =>
    rw [List.length_cons] at hp
    obtain ⟨t, hpush, hev, ht⟩ := receiving_push h (by omega) hfits b
    obtain ⟨u, hfeed, hu⟩ := ih ht (by simp; omega)
    refine ⟨u, ?_, by simpa using hu⟩
    rw [feed_cons _ hpush, hfeed, hev]
    rfl

end Receiving

/-- From `SeekSync1` the sync pair and the covered bytes of a frame that fits are silent, and leave RX before its trailer. -/
theorem feed_sync_covered {cfg : Config} {s : State} (hst : s.st = .seekSync1) (c i : Byte) {p : List Byte}
    (hp : p.length ≤ cfg.pCap.val) :
    ∃ t, feed cfg ([cfg.sync1, cfg.sync2] ++ coveredBytes c i p) s =
        some (t, List.replicate (p.length + 6) (some .silent)) ∧
      Receiving c i (BitVec.ofNat 16 p.length) p t := by
  have hlen : (BitVec.ofNat 16 p.length).toNat = p.length := toNat_ofNat_length (by have := cfg.pCap.isLt; omega)
  have hfits : (BitVec.ofNat 16 p.length).toNat ≤ cfg.pCap.val := by rwa [hlen]
  obtain ⟨hev, hrec⟩ := receiving_lengthStage (s := s) (c := c) (i := i) hfits (highByte (BitVec.ofNat 16 p.length))
  have hheader := feed_sync_header hst c i (BitVec.ofNat 16 p.length) (cfg := cfg)
  obtain ⟨t, hpayload, ht⟩ := receiving_feed hrec hfits p (by simp [hlen])
  refine ⟨t, ?_, ht⟩
  rw [coveredBytes, ← List.append_assoc, feed_append hheader hpayload, hev]
  have hsix : List.replicate 5 (some Event.silent) ++ [some .silent] = List.replicate 6 (some .silent) := rfl
  rw [hsix, List.replicate_append_replicate, Nat.add_comm]

/-- A trailer other than the sums is rejected at its last byte (R89, R90). -/
theorem feed_trailer_mismatch {cfg : Config} {s : State} {a b : Byte} (hst : s.st = .readChecksumA)
    (h : ¬ (a = s.ckA ∧ b = s.ckB)) :
    feed cfg [a, b] s =
      some ({ idle s with st := rejectState cfg b, rxEvent := some (.bare .rejectChecksum) },
        [some .silent, some (.bare .rejectChecksum)]) := by
  have ha : push cfg a s = .next { s with rxCkA := a, st := .readChecksumB, rxEvent := some .silent } := by
    rw [push_eq_pushRule, hst]
    rfl
  have hb : push cfg b { s with rxCkA := a, st := .readChecksumB, rxEvent := some .silent } =
      .next { idle s with st := rejectState cfg b, rxEvent := some (.bare .rejectChecksum) } := by
    rw [push_eq_pushRule]
    simp only [pushRule, pushReadChecksumB, checksumMatches_iff, if_neg h, rejectChecksum_eq]
    rfl
  rw [feed_cons _ ha, feed_cons _ hb]
  rfl

/-! ## `badframe` (30_encoding.md R74) -/

theorem bumpLast_append_singleton (l : List Byte) (b : Byte) : bumpLast (l ++ [b]) = l ++ [b + 1] := by
  induction l with
  | nil => rfl
  | cons x xs ih =>
    cases xs with
    | nil => rfl
    | cons y ys => exact congrArg (x :: ·) ih

theorem bumpLast_frame (cfg : Config) (c i : Byte) (p : List Byte) :
    bumpLast (frame cfg c i p) =
      [cfg.sync1, cfg.sync2] ++ coveredBytes c i p ++ [(ck (coveredBytes c i p)).1, (ck (coveredBytes c i p)).2 + 1] := by
  have hsplit : frame cfg c i p =
      ([cfg.sync1, cfg.sync2] ++ coveredBytes c i p ++ [(ck (coveredBytes c i p)).1]) ++ [(ck (coveredBytes c i p)).2] := by
    simp [frame]
  rw [hsplit, bumpLast_append_singleton, List.append_assoc]
  rfl

/-- Settles O53: up to its trailer a bad frame is the frame; its last byte is one more than the second sum. -/
theorem badframeIsRejected : Obligations.BadframeIsRejected := by
  intro cfg c i p s hst hp
  have hlong : ¬ 65535 < p.length := by
    have := cfg.pCap.isLt
    omega
  refine ⟨if_neg hlong, ?_⟩
  obtain ⟨t, hcovered, ht⟩ := feed_sync_covered hst c i hp
  have hst' : t.st = .readChecksumA := by
    rw [ht.st, if_pos (toNat_ofNat_length (by omega)).symm]
  have hsums : ck (coveredBytes c i p) = (t.ckA, t.ckB) := ht.sums
  rw [bumpLast_frame, hsums]
  have htrailer := feed_trailer_mismatch (cfg := cfg) (a := t.ckA) (b := t.ckB + 1) hst' (by simp)
  have hevents (x : Option Event) : List.replicate (p.length + 6) (some Event.silent) ++ [some .silent, x] =
      List.replicate (p.length + 7) (some .silent) ++ [x] := by
    rw [List.replicate_succ' (n := p.length + 6), List.append_assoc]
    rfl
  exact ⟨_, hevents _ ▸ feed_append hcovered htrailer⟩

end Sys2Proof.Proofs

namespace Sys2Proof.Proofs

open Machine

/-! ## The rules of `PUSH` as records (41_rx_parser.md R82, R87, R90) -/

theorem pushSeekSync1_eq (cfg : Config) (b : Byte) (s : State) :
    pushSeekSync1 cfg b s =
      .next { s with st := if b = cfg.sync1 then .seekSync2 else .seekSync1, rxEvent := some Event.silent } := by
  simp only [pushSeekSync1, syncCheck, beq_iff_eq]
  rfl

theorem pushReadLenHigh_eq (cfg : Config) (b : Byte) (s : State) :
    pushReadLenHigh cfg b s = .next (
      if cfg.pCap.val < (lenWithHigh b s.len).toNat then
        { idle s with st := rejectState cfg b, rxEvent := some (.bare .rejectOversize) }
      else { s with len := lenWithHigh b s.len, ckA := s.ckA + b, ckB := s.ckB + (s.ckA + b),
                    st := if lenWithHigh b s.len = 0 then .readChecksumA else .readPayload,
                    rxEvent := some Event.silent }) := by
  rw [pushReadLenHigh, lengthStage_eq]
  rfl

theorem pushReadChecksumB_eq (cfg : Config) (b : Byte) (s : State) :
    pushReadChecksumB cfg b s = .next (
      if s.rxCkA = s.ckA ∧ b = s.ckB then { idle s with rxEvent := some (acceptEvent cfg s) }
      else { idle s with st := rejectState cfg b, rxEvent := some (.bare .rejectChecksum) }) := by
  simp only [pushReadChecksumB, checksumMatches_iff, rejectChecksum_eq]
  rfl

/-- The assembled length and the number its two bytes stand for (R87). -/
theorem lenWithHigh_eq_ofNat (b : Byte) (len : U16) :
    lenWithHigh b len = BitVec.ofNat 16 (len.toNat % 256 + 256 * b.toNat) := by
  rw [← lenWithHigh_toNat, BitVec.ofNat_toNat, BitVec.setWidth_eq]

theorem lenWithHigh_eq_zero_iff (b : Byte) (len : U16) :
    lenWithHigh b len = 0 ↔ len.toNat % 256 + 256 * b.toNat = 0 := by
  rw [← lenWithHigh_toNat, ← BitVec.toNat_inj]
  rfl

/-! ## What each row of `PUSH` does (41_rx_parser.md R80 to R90) -/

/-- Settles O1: both rows run R82. -/
theorem pushSeekSync1Result : Obligations.PushSeekSync1Result := by
  refine fun b s => ⟨?_, pushSeekSync1_eq block b s⟩
  exact (pushSeekSync1_eq block block.sync1 s).trans (by rw [if_pos rfl])

/-- Settles O2: both rows run R83, which tests `SYNC2` first. -/
theorem pushSeekSync2Result : Obligations.PushSeekSync2Result := by
  have hrule (cfg : Config) (b : Byte) (s : State) := (pushSeekSync2_eq cfg b s).trans (apply_ite Host.Outcome.next ..)
  exact ⟨fun s => (hrule block block.sync2 s).trans (if_pos rfl), hrule block, hrule⟩

/-- Settles O3: the three rules end in the records stated. -/
theorem pushHeaderBytesResult : Obligations.PushHeaderBytesResult := fun _ _ => ⟨rfl, rfl, rfl⟩

/-- Settles O4: R87 with the length as a number. -/
theorem pushReadLenHighResult : Obligations.PushReadLenHighResult := by
  intro b s
  have hrule := pushReadLenHigh_eq block b s
  simp only [lenWithHigh_toNat, lenWithHigh_eq_zero_iff] at hrule
  rw [lenWithHigh_eq_ofNat] at hrule
  exact hrule

/-- R88 with an index inside the buffer, as one record. -/
theorem pushReadPayload_eq {cfg : Config} (b : Byte) {s : State} (h : s.cnt.toNat < cfg.pCap.val) :
    pushReadPayload cfg b s =
      .next { s with buf := Memory.write s.buf s.cnt.toNat b, cnt := s.cnt + 1, ckA := s.ckA + b,
                     ckB := s.ckB + (s.ckA + b), st := if s.cnt + 1 = s.len then .readChecksumA else s.st,
                     rxEvent := some Event.silent } := by
  rw [pushReadPayload_inside b h, payloadStage_eq]

/-- Settles O5: the row runs R88 at this block's capacity. -/
theorem pushReadPayloadResult : Obligations.PushReadPayloadResult :=
  ⟨fun _ b _ h => pushReadPayload_eq b h, fun b _ h => pushReadPayload_eq b h⟩

/-- Settles O7: the rule ends in the record stated. -/
theorem pushReadChecksumAResult : Obligations.PushReadChecksumAResult := fun _ _ => rfl

/-- Settles O8: the row runs R90. -/
theorem pushReadChecksumBResult : Obligations.PushReadChecksumBResult := fun b s => pushReadChecksumB_eq block b s

/-- Settles O9: in each state `PUSH` and the state's row run the same rule. -/
theorem pushDispatchesOnState : Obligations.PushDispatchesOnState := by
  intro b s
  rw [exec_push, push_eq_pushRule]
  cases s.st <;> rfl

/-- Settles O16: a step without a move is a pause. -/
theorem noMoveChangesNothing : Obligations.NoMoveChangesNothing := fun _ => step_pause

/-! ## What a step stores (20_memory.md R40, 41_rx_parser.md R88) -/

/-- R88 that answers a next state stored the byte at the count, and no other. -/
theorem pushReadPayload_next_buf {cfg : Config} {b : Byte} {s t : State} (h : pushReadPayload cfg b s = .next t) :
    t.buf = Memory.write s.buf s.cnt.toNat b := by
  obtain ⟨-, rfl⟩ := pushReadPayload_next h
  rw [payloadStage_eq]

/-- Outside `ReadPayload` a rule of the parser writes no byte of the buffer. -/
theorem pushRule_next_buf {cfg : Config} {st : RxState} {b : Byte} {s t : State} (hst : st ≠ .readPayload)
    (h : pushRule cfg st b s = .next t) : t.buf = s.buf := by
  cases st with
  | seekSync1 | readClass | readId | readLenLow | readChecksumA =>
    cases h
    rfl
  | seekSync2 =>
    simp only [pushRule, pushSeekSync2_eq] at h
    cases h
    split <;> rfl
  | readLenHigh =>
    simp only [pushRule, pushReadLenHigh_eq] at h
    cases h
    split <;> rfl
  | readPayload => exact absurd rfl hst
  | readChecksumB =>
    simp only [pushRule, pushReadChecksumB_eq] at h
    cases h
    split <;> rfl

/-- An instruction leaves the buffer alone, or runs R88 and stores at its index. -/
theorem exec_next_buf {i : Instr} {s t : State} (h : exec i s = .next t) :
    t.buf = s.buf ∨ storeIndex i s = some s.cnt.toNat ∧ ∃ b, t.buf = Memory.write s.buf s.cnt.toNat b := by
  cases i with
  | push b =>
    rw [exec_push, push_eq_pushRule] at h
    by_cases hst : s.st = .readPayload
    · rw [hst] at h
      exact .inr ⟨if_pos hst, b, pushReadPayload_next_buf h⟩
    · exact .inl (pushRule_next_buf hst h)
  | pushReadPayload b => exact .inr ⟨rfl, b, pushReadPayload_next_buf h⟩
  | flush | reserved | txFrame | pushSeekSync1Sync | pushSeekSync1Other | pushReadClass | pushReadId | pushReadLenLow
  | pushReadChecksumA =>
    cases h
    exact .inl rfl
  | pushSeekSync2Sync => exact .inl (pushRule_next_buf (st := .seekSync2) (b := block.sync2) nofun h)
  | pushSeekSync2Other b => exact .inl (pushRule_next_buf (st := .seekSync2) (b := b) nofun h)
  | pushReadLenHigh b => exact .inl (pushRule_next_buf (st := .readLenHigh) (b := b) nofun h)
  | pushReadChecksumB b => exact .inl (pushRule_next_buf (st := .readChecksumB) (b := b) nofun h)

/-- Settles O23: a byte stored elsewhere leaves every other byte as it reads. -/
theorem bufferUnchangedElsewhere : Obligations.BufferUnchangedElsewhere := by
  intro i s t h a ha
  rcases exec_next_buf h with hbuf | ⟨hindex, b, hbuf⟩
  · rw [hbuf]
  · have hne : a ≠ s.cnt.toNat := fun he => ha (he ▸ hindex)
    rw [hbuf, Memory.read_write_other s.buf b hne]

theorem pushReadPayload_reads_back {cfg : Config} {b : Byte} {s t : State} (h : pushReadPayload cfg b s = .next t) :
    Memory.read t.buf s.cnt.toNat = some b := by
  rw [pushReadPayload_next_buf h, Memory.read_write_same]

/-- Settles O24: both instructions run R88 in `ReadPayload`. -/
theorem storedPayloadByteReadsBack : Obligations.StoredPayloadByteReadsBack := by
  refine ⟨fun _ _ => ⟨rfl, rfl⟩, fun cfg b s t => ⟨pushReadPayload_reads_back, fun hst h => ?_⟩⟩
  rw [push_eq_pushRule, hst] at h
  exact pushReadPayload_reads_back h

/-! ## The transition table (41_rx_parser.md R92) -/

/-- A `PUSH` that completes ends in the table's next state, with an event of the table's kind and the table's registers. -/
theorem push_next_table {cfg : Config} {b : Byte} {s t : State} (h : push cfg b s = .next t) :
    t.st = tableNext cfg s b ∧ (∃ e, t.rxEvent = some e ∧ e.kind ∈ tableEvents cfg s b) ∧ tableRegisters cfg s b t := by
  have quiet : ∃ e, some Event.silent = some e ∧ e.kind ∈ [EventKind.quiet] := ⟨.silent, rfl, List.mem_singleton.2 rfl⟩
  have hregs : registersCleared (idle s) := registersCleared_idle s
  have hlen : u16OfBytes (lowByte s.len) b = lenWithHigh b s.len := rfl
  unfold tableNext tableEvents tableRegisters
  rcases push_cases h with ⟨hst, rfl⟩ | ⟨hst, hb, rfl⟩ | ⟨hst, hb, rfl⟩ | ⟨hst, rfl⟩ | ⟨hst, rfl⟩ | ⟨hst, rfl⟩ |
    ⟨hst, hbig, rfl⟩ | ⟨hst, hfits, rfl⟩ | ⟨hst, -, rfl⟩ | ⟨hst, rfl⟩ | ⟨hst, hck, rfl⟩ | ⟨hst, hck, rfl⟩ <;>
    simp only [hst]
  · exact ⟨trivial, quiet, by simp⟩
  · simp only [if_pos hb]
    exact ⟨trivial, quiet, by simp⟩
  · simp only [if_neg hb]
    exact ⟨trivial, quiet, by simp⟩
  · exact ⟨trivial, quiet, by simp⟩
  · exact ⟨trivial, quiet, by simp⟩
  · exact ⟨trivial, quiet, by simp⟩
  · simp only [hlen, if_pos hbig]
    exact ⟨trivial, ⟨_, rfl, List.mem_singleton.2 rfl⟩, hregs⟩
  · simp only [hlen, if_neg (Nat.not_lt.2 hfits)]
    exact ⟨trivial, quiet, by simp⟩
  · exact ⟨trivial, quiet, by simp⟩
  · exact ⟨trivial, quiet, by simp⟩
  · simp only [if_pos hck]
    exact ⟨rfl, ⟨_, rfl, demux_kind ..⟩, hregs⟩
  · simp only [if_neg hck]
    exact ⟨trivial, ⟨_, rfl, List.mem_singleton.2 rfl⟩, hregs⟩

/-- Settles O10: `PUSH` completes, by the table, and stores at its index only. -/
theorem pushFollowsTransitionTable : Obligations.PushFollowsTransitionTable := by
  intro b s hindex
  obtain ⟨t, ht⟩ := push_completes b s hindex
  obtain ⟨hst, hevent, hregs⟩ := push_next_table ht
  exact ⟨t, ht, hst, hevent, hregs, bufferUnchangedElsewhere (.push b) s t ht⟩

/-! ## The outcome of a frame (41_rx_parser.md R95) -/

/-- A trailer that is the sums delivers the frame at its last byte (R89, R90). -/
theorem feed_trailer_match {cfg : Config} {s : State} (hst : s.st = .readChecksumA) :
    feed cfg [s.ckA, s.ckB] s =
      some ({ idle s with rxEvent := some (acceptEvent cfg s) }, [some .silent, some (acceptEvent cfg s)]) := by
  have ha : push cfg s.ckA s = .next { s with rxCkA := s.ckA, st := .readChecksumB, rxEvent := some .silent } := by
    rw [push_eq_pushRule, hst]
    rfl
  have hb : push cfg s.ckB { s with rxCkA := s.ckA, st := .readChecksumB, rxEvent := some .silent } =
      .next { idle s with rxEvent := some (acceptEvent cfg s) } := by
    rw [push_eq_pushRule]
    simp only [pushRule, pushReadChecksumB_eq, and_self, if_true]
    rfl
  rw [feed_cons _ ha, feed_cons _ hb]
  rfl

/-- The last silent step of a frame belongs to its trailer. -/
theorem replicate_silent_append_trailer (n : Nat) (x : Option Event) :
    List.replicate (n + 6) (some Event.silent) ++ [some .silent, x] = List.replicate (n + 7) (some .silent) ++ [x] := by
  rw [List.replicate_succ' (n := n + 6), List.append_assoc]
  rfl

/-- A frame by its checksum (R60, R61). -/
theorem frame_of_ck (cfg : Config) {c i a b : Byte} {p : List Byte} (h : ck (coveredBytes c i p) = (a, b)) :
    frame cfg c i p = [cfg.sync1, cfg.sync2] ++ coveredBytes c i p ++ [a, b] := by
  rw [frame, h]

section Receiving

variable {c i : Byte} {p : List Byte} {s : State}

/-- With the whole payload received, RX waits for the trailer. -/
theorem Receiving.st_of_length (h : Receiving c i (BitVec.ofNat 16 p.length) p s) (hp : p.length ≤ 65535) :
    s.st = .readChecksumA := by
  rw [h.st, if_pos (toNat_ofNat_length hp).symm]

/-- With the whole payload received, the frame's event is that of the payload itself (R128). -/
theorem Receiving.acceptEvent_eq (h : Receiving c i (BitVec.ofNat 16 p.length) p s) (hp : p.length ≤ 65535)
    (cfg : Config) : acceptEvent cfg s = demux cfg.registry c i (BitVec.ofNat 16 p.length) p := by
  have hcnt : s.cnt = s.len := BitVec.eq_of_toNat_eq (by rw [h.cnt, h.len, toNat_ofNat_length hp])
  rw [acceptEvent, ← hcnt, h.view, hcnt, h.cls, h.id, h.len]

end Receiving

section Frame

variable {cfg : Config} {s : State} (hst : s.st = .seekSync1) (c i : Byte) {p : List Byte}

include hst

/-- A frame that fits is silent until its last byte, which delivers it. -/
theorem feed_frame (hp : p.length ≤ cfg.pCap.val) :
    ∃ t, feed cfg (frame cfg c i p) s =
        some (t, List.replicate (p.length + 7) (some Event.silent) ++
          [some (demux cfg.registry c i (BitVec.ofNat 16 p.length) p)]) ∧
      registersCleared t ∧ t.st = .seekSync1 := by
  have hlen : p.length ≤ 65535 := by have := cfg.pCap.isLt; omega
  obtain ⟨t, hcovered, ht⟩ := feed_sync_covered hst c i hp
  have hsums : ck (coveredBytes c i p) = (t.ckA, t.ckB) := ht.sums
  have hfeed := feed_append hcovered (feed_trailer_match (ht.st_of_length hlen))
  rw [replicate_silent_append_trailer, ht.acceptEvent_eq hlen] at hfeed
  rw [frame_of_ck cfg hsums]
  exact ⟨_, hfeed, registersCleared_idle t, rfl⟩

/-- Any other trailer is rejected at its last byte. -/
theorem feed_frame_mismatch {a b : Byte} (hp : p.length ≤ cfg.pCap.val) (hck : (a, b) ≠ ck (coveredBytes c i p)) :
    ∃ t, feed cfg ([cfg.sync1, cfg.sync2] ++ coveredBytes c i p ++ [a, b]) s =
        some (t, List.replicate (p.length + 7) (some Event.silent) ++ [some (.bare .rejectChecksum)]) ∧
      registersCleared t ∧ t.st = rejectState cfg b := by
  have hlen : p.length ≤ 65535 := by have := cfg.pCap.isLt; omega
  obtain ⟨t, hcovered, ht⟩ := feed_sync_covered hst c i hp
  have hsums : ck (coveredBytes c i p) = (t.ckA, t.ckB) := ht.sums
  rw [hsums, ne_eq, Prod.mk.injEq] at hck
  have hfeed := feed_append hcovered (feed_trailer_mismatch (ht.st_of_length hlen) hck)
  rw [replicate_silent_append_trailer] at hfeed
  exact ⟨_, hfeed, registersCleared_idle t, rfl⟩

/-- A header whose length does not fit is rejected at its last byte (R87). -/
theorem feed_header_oversize {n : U16} (hn : cfg.pCap.val < n.toNat) :
    ∃ t, feed cfg ([cfg.sync1, cfg.sync2] ++ frameHeader c i n) s =
        some (t, List.replicate 5 (some Event.silent) ++ [some (.bare .rejectOversize)]) ∧
      registersCleared t ∧ t.st = rejectState cfg (highByte n) := by
  have hstage : lengthStage cfg (highByte n) (headerRead c i n s) =
      { idle (headerRead c i n s) with st := rejectState cfg (highByte n), rxEvent := some (.bare .rejectOversize) } := by
    rw [lengthStage_eq]
    exact if_pos hn
  have hfeed := feed_sync_header (cfg := cfg) hst c i n
  rw [hstage] at hfeed
  exact ⟨_, hfeed, registersCleared_idle (headerRead c i n s), rfl⟩

end Frame

theorem highByte_ofNat {n : Nat} (h : n ≤ 65535) : highByte (BitVec.ofNat 16 n) = BitVec.ofNat 8 (n / 256) := by
  apply BitVec.eq_of_toNat_eq
  rw [highByte_toNat, BitVec.toNat_ofNat, BitVec.toNat_ofNat]
  omega

/-- Settles O49: within the capacity by the trailer, above it by the header. -/
theorem frameOutcome : Obligations.FrameOutcome := by
  intro cfg c i a b p s hst hlen
  split
  next hp =>
    by_cases hck : (a, b) = ck (coveredBytes c i p)
    · simpa only [if_pos hck, frame_of_ck cfg hck.symm] using feed_frame hst c i hp
    · simpa only [if_neg hck] using feed_frame_mismatch hst c i hp hck
  next hp =>
    have hn : cfg.pCap.val < (BitVec.ofNat 16 p.length).toNat := by
      rw [toNat_ofNat_length hlen]
      omega
    rw [← highByte_ofNat hlen]
    exact feed_header_oversize hst c i hn

/-! ## Noise before a frame (41_rx_parser.md R93 (a)) -/

theorem noSyncPair_tail {cfg : Config} {b : Byte} {bs : List Byte} (h : noSyncPair cfg (b :: bs)) : noSyncPair cfg bs :=
  fun k => h (k + 1)

/-- After the first marker no second one follows. -/
theorem head?_ne_sync2_of_noSyncPair {cfg : Config} {bs : List Byte} (h : noSyncPair cfg (cfg.sync1 :: bs)) :
    bs.head? ≠ some cfg.sync2 := by
  rw [List.head?_eq_getElem?]
  exact fun hhead => h 0 ⟨rfl, hhead⟩

/-- A byte that completes no sync pair leaves RX seeking. -/
theorem push_seekOn {cfg : Config} {b : Byte} {s : State}
    (h : s.st = .seekSync1 ∨ s.st = .seekSync2 ∧ b ≠ cfg.sync2) :
    push cfg b s = .next { s with st := if b = cfg.sync1 then .seekSync2 else .seekSync1, rxEvent := some Event.silent } := by
  rw [push_eq_pushRule]
  rcases h with hst | ⟨hst, hb⟩ <;> rw [hst]
  · exact pushSeekSync1_eq cfg b s
  · exact (pushSeekSync2_eq cfg b s).trans (by rw [if_neg hb])

/-- The first marker begins a pair from either seeking state, if it is not the second marker. -/
theorem feed_sync1_of_seeking {cfg : Config} {s : State} (hne : cfg.sync1 ≠ cfg.sync2)
    (h : s.st = .seekSync1 ∨ s.st = .seekSync2) (bs : List Byte) :
    feed cfg (cfg.sync1 :: bs) s = feed cfg (cfg.sync1 :: bs) { s with st := .seekSync1 } := by
  rw [feed_cons bs (push_seekOn (h.imp_right (⟨·, hne⟩))), feed_cons bs (push_seekOn (.inl rfl))]

/-- Bytes without a sync pair are silent, and RX seeks on after them, if the first of them does not complete a pair begun
before them. -/
theorem feed_noise {cfg : Config} {noise : List Byte} (hnoise : noSyncPair cfg noise) {s : State}
    (h : s.st = .seekSync1 ∨ s.st = .seekSync2 ∧ noise.head? ≠ some cfg.sync2) :
    ∃ t, feed cfg noise s = some (t, List.replicate noise.length (some .silent)) ∧
      (t.st = .seekSync1 ∨ t.st = .seekSync2) := by
  induction noise generalizing s with
  | nil => exact ⟨s, rfl, h.imp_right And.left⟩
  | cons b bs ih =>
    have hpush := push_seekOn (h.imp_right (And.imp_right fun hne hb => hne (congrArg some hb)))
    obtain ⟨t, hfeed, ht⟩ := ih (noSyncPair_tail hnoise)
      (s := { s with st := if b = cfg.sync1 then .seekSync2 else .seekSync1, rxEvent := some Event.silent }) (by
        dsimp only
        split
        next hb => exact .inr ⟨rfl, head?_ne_sync2_of_noSyncPair (hb ▸ hnoise)⟩
        next => exact .inl rfl)
    refine ⟨t, ?_, ht⟩
    rw [feed_cons bs hpush, hfeed]
    rfl

/-- Settles O54: RX seeks after the noise, and its partial pair is forgotten at the frame's own first marker. -/
theorem frameAfterNoiseIsReceived : Obligations.FrameAfterNoiseIsReceived := by
  intro cfg noise c i p s hne hst hnoise hp
  obtain ⟨u, hfeed, hseek⟩ := feed_noise hnoise (.inl hst)
  obtain ⟨t, hframe, hregs, ht⟩ := feed_frame (s := { u with st := .seekSync1 }) rfl c i hp
  rw [frame_eq_cons, ← feed_sync1_of_seeking hne hseek, ← frame_eq_cons] at hframe
  refine ⟨t, ?_, ht, hregs⟩
  rw [feed_append hfeed hframe, ← List.append_assoc, List.replicate_append_replicate, Nat.add_assoc]

end Sys2Proof.Proofs

namespace Sys2Proof.Proofs

open Machine

/-! ## The RX control commands (42_rx_control.md R100, R101) -/

/-- Settles O11: the words are those of selector 1, and the command is `Idle` with `NONE`. -/
theorem flushResult : Obligations.FlushResult := by
  refine ⟨fun w hlo hhi => ?_, exec_flush⟩
  obtain ⟨-, hflush, -⟩ := commandSelectorTable w
  rw [cmdData_eq_ofNat]
  exact hflush (by omega)

/-- Settles O12: the words are those of the selectors 2 and 3, and the command is its event alone. -/
theorem reservedWordResult : Obligations.ReservedWordResult := by
  refine ⟨fun w hlo => ?_, exec_reserved⟩
  obtain ⟨-, -, hreserved⟩ := commandSelectorTable w
  exact hreserved (by omega)

/-! ## No instruction looks at the moves still to come (42_rx_control.md R102) -/

/-- The state with another list of moves to come. -/
def mapInput (f : List HostMove → List HostMove) (s : State) : State := { s with input := f s.input }

/-- A rule of the parser neither reads nor writes the moves to come, whether it completes or stops. -/
theorem pushRule_mapInput (cfg : Config) (st : RxState) (b : Byte) (f : List HostMove → List HostMove) (s : State) :
    pushRule cfg st b (mapInput f s) = andThen (pushRule cfg st b s) (fun t => .next (mapInput f t)) := by
  cases st with
  | seekSync1 | readClass | readId | readLenLow | readChecksumA => rfl
  | seekSync2 =>
    simp only [pushRule, pushSeekSync2_eq, andThen, apply_ite (mapInput f)]
    rfl
  | readLenHigh =>
    simp only [pushRule, pushReadLenHigh_eq, andThen, apply_ite (mapInput f)]
    rfl
  | readPayload =>
    rcases Nat.lt_or_ge s.cnt.toNat cfg.pCap.val with hi | hi
    · simp only [pushRule, pushReadPayload_eq b hi]
      exact pushReadPayload_eq b hi
    · simp only [pushRule, pushReadPayload_outside b hi]
      exact pushReadPayload_outside b hi
  | readChecksumB =>
    simp only [pushRule, pushReadChecksumB_eq, andThen, apply_ite (mapInput f)]
    rfl

theorem exec_rx_mapInput {i : Instr} (hrx : isRx i = true) (f : List HostMove → List HostMove) (s : State) :
    exec i (mapInput f s) = andThen (exec i s) (fun t => .next (mapInput f t)) := by
  rcases exec_rx_cases hrx s with hflush | hreserved | ⟨st, b, hrule, -⟩
  · rw [hflush, hflush]
    rfl
  · rw [hreserved, hreserved]
    rfl
  · have hst : (mapInput f s).st = s.st := rfl
    rw [hrule _ hst, hrule s rfl]
    exact pushRule_mapInput block st b f s

theorem exec_mapInput (i : Instr) (f : List HostMove → List HostMove) (s : State) :
    exec i (mapInput f s) = andThen (exec i s) (fun t => .next (mapInput f t)) := by
  cases hrx : isRx i with
  | true => exact exec_rx_mapInput hrx f s
  | false =>
    cases i with
    | txFrame c m p => rfl
    | _ => cases hrx

/-- What commutes with every list of moves leaves the one it was given. -/
theorem exec_next_input {i : Instr} {s t : State} (h : exec i s = .next t) : t.input = s.input := by
  have hsame : exec i s = andThen (exec i s) (fun u => .next (mapInput (fun _ => s.input) u)) :=
    exec_mapInput i (fun _ => s.input) s
  rw [h] at hsame
  have ht : t = mapInput (fun _ => s.input) t := Host.Outcome.next.inj hsame
  rw [ht]
  rfl

/-- A step takes one move, if there is one. -/
theorem step_next_input {s t : State} (h : step s = .next t) : t.input = s.input.tail := by
  match hin : s.input with
  | [] =>
    rw [step_pause hin] at h
    cases h
    exact hin
  | .rx w :: rest =>
    rw [step_rx hin] at h
    exact exec_next_input h
  | .tx c i p :: rest =>
    rw [step_tx hin] at h
    exact exec_next_input h
  | .rst presented :: rest =>
    rw [step_rst hin] at h
    cases h
    rfl
  | .bufRead k :: rest =>
    rw [step_bufRead hin] at h
    cases h
    rfl

/-- A step that has a move does not look at moves after it. -/
theorem step_append {s : State} (hne : s.input ≠ []) (ns : List HostMove) :
    step (mapInput (· ++ ns) s) = andThen (step s) (fun t => .next (mapInput (· ++ ns) t)) := by
  have hinput {m : HostMove} {rest : List HostMove} (hin : s.input = m :: rest) :
      (mapInput (· ++ ns) s).input = m :: (rest ++ ns) := congrArg (· ++ ns) hin
  match hin : s.input with
  | [] => exact absurd hin hne
  | .rx w :: rest =>
    rw [step_rx hin, step_rx (hinput hin)]
    exact exec_mapInput (decodeCommand w) (· ++ ns) { s with input := rest }
  | .tx c i p :: rest =>
    rw [step_tx hin, step_tx (hinput hin)]
    rfl
  | .rst presented :: rest =>
    rw [step_rst hin, step_rst (hinput hin)]
    rfl
  | .bufRead k :: rest =>
    rw [step_bufRead hin, step_bufRead (hinput hin)]
    rfl

/-! ## Runs (42_rx_control.md R102) -/

theorem andThen_assoc (o : Host.Outcome State Fault Refusal) (f g : State → Host.Outcome State Fault Refusal) :
    andThen (andThen o f) g = andThen o (fun s => andThen (f s) g) := by
  cases o <;> rfl

/-- The machine's own run, over the model's names for its types. -/
def runSteps (k : Nat) (s : State) : Host.Outcome State Fault Refusal := Host.Core.run core k s

theorem core_run_succ (k : Nat) (s : core.State) : core.run (k + 1) s = andThen (core.step s) (core.run k) := by
  rw [Host.Core.run]
  cases core.step s <;> rfl

theorem runSteps_succ (k : Nat) (s : State) : runSteps (k + 1) s = andThen (step s) (runSteps k) := core_run_succ k s

theorem runSteps_succ_of_step {s t : State} (h : step s = .next t) (k : Nat) :
    runSteps (k + 1) s = runSteps k t := by
  rw [runSteps_succ, h]
  rfl

/-- A run in two parts. -/
theorem runSteps_add (j k : Nat) (s : State) :
    runSteps (j + k) s = andThen (runSteps j s) (runSteps k) := by
  induction j generalizing s with
  | zero =>
    rw [Nat.zero_add]
    rfl
  | succ j ih =>
    rw [Nat.add_right_comm, runSteps_succ, runSteps_succ, andThen_assoc]
    exact congrArg (andThen (step s)) (funext ih)

/-- A run takes one move for each step. -/
theorem runSteps_next_input {k : Nat} {s t : State} (h : runSteps k s = .next t) : t.input = s.input.drop k := by
  induction k generalizing s with
  | zero =>
    cases h
    rfl
  | succ k ih =>
    rw [runSteps_succ] at h
    obtain ⟨u, hstep, hrun⟩ := andThen_next h
    rw [ih hrun, step_next_input hstep, List.drop_tail]

/-- As far as its moves reach, a run does not look at moves after them. -/
theorem runSteps_append {k : Nat} {s : State} (hk : k ≤ s.input.length) (ns : List HostMove) :
    runSteps k (mapInput (· ++ ns) s) =
      andThen (runSteps k s) (fun t => .next (mapInput (· ++ ns) t)) := by
  induction k generalizing s with
  | zero => rfl
  | succ k ih =>
    have hne : s.input ≠ [] := List.ne_nil_of_length_pos (by omega)
    rw [runSteps_succ, runSteps_succ, step_append hne]
    cases hstep : step s with
    | next t =>
      have hlen : t.input.length = s.input.length - 1 := by rw [step_next_input hstep, List.length_tail]
      exact ih (by omega)
    | fault r => rfl
    | refused r => rfl

/-! ## A chunk from a state that meets the invariant (10_state.md R30) -/

theorem chunk_length (bytes : List Byte) : (chunk bytes).length = bytes.length := List.length_map ..

theorem chunk_append (xs ys : List Byte) : chunk (xs ++ ys) = chunk xs ++ chunk ys := List.map_append ..

/-- (I3) and (I4) keep the write index of a `PUSH` inside the buffer. -/
theorem push_completes_of_inv {cfg : Config} {s : State} (h : Inv cfg s) (b : Byte) : ∃ t, push cfg b s = .next t :=
  push_completes b s fun hst => (h.counting hst).trans_le (h.fits (by simp [hst, lengthAccepted]))

/-- The first byte of a chunk is one step with one event record, and leaves the rest of the chunk. -/
theorem step_chunk {s : State} (h : Inv block s) {b : Byte} {bs : List Byte} (hin : s.input = chunk (b :: bs)) :
    ∃ t e, step s = .next t ∧ Inv block t ∧ t.input = chunk bs ∧ t.rxEvent = some e ∧ e.wellFormed := by
  have hmoved : Inv block { s with input := chunk bs } := inv_takeMove h (chunk bs)
  obtain ⟨t, ht⟩ := push_completes_of_inv hmoved b
  have hstep : step s = exec (.push b) { s with input := chunk bs } := by
    rw [step_rx hin, decodeCommand_push]
    rfl
  obtain ⟨e, he, hwf⟩ := rxStepEmitsOneRecord (.push b) _ t rfl ht
  exact ⟨t, e, hstep.trans ht, inv_push hmoved ht, exec_next_input (i := .push b) ht, he, hwf⟩

/-- So is every byte of it. -/
theorem runSteps_chunk {xs : List Byte} {s : State} {k : Nat} (h : Inv block s) (hin : s.input = chunk xs) (hpos : 0 < k)
    (hk : k ≤ xs.length) :
    ∃ t e, runSteps k s = .next t ∧ t.rxEvent = some e ∧ e.wellFormed := by
  induction xs generalizing s k with
  | nil => exact absurd hpos (Nat.not_lt.2 hk)
  | cons b bs ih =>
    obtain ⟨t, e, hstep, hinv, hrest, he, hwf⟩ := step_chunk h hin
    match k with
    | 1 => exact ⟨t, e, runSteps_succ_of_step hstep 0, he, hwf⟩
    | k + 2 =>
      rw [runSteps_succ_of_step hstep]
      exact ih hinv hrest (Nat.succ_pos k) (Nat.le_of_succ_le_succ hk)

/-- After a chunk has run to its end, a run of both chunks goes on as a run of the second. -/
theorem runSteps_secondChunk {xs : List Byte} {s t : State} (hin : s.input = chunk xs)
    (hrun : runSteps xs.length s = .next t) (ys : List Byte) :
    t.input = [] ∧ ∀ k, runSteps (xs.length + k) { s with input := chunk (xs ++ ys) } =
      runSteps k { t with input := chunk ys } := by
  have hlen : s.input.length = xs.length := by rw [hin, chunk_length]
  have hend : t.input = [] := (runSteps_next_input hrun).trans (List.drop_of_length_le hlen.le)
  have hfirst : mapInput (· ++ chunk ys) s = { s with input := chunk (xs ++ ys) } := by
    rw [mapInput, hin, ← chunk_append]
  have hsecond : mapInput (· ++ chunk ys) t = { t with input := chunk ys } := by
    rw [mapInput, hend, List.nil_append]
  refine ⟨hend, fun k => ?_⟩
  rw [← hfirst, ← hsecond, runSteps_add, runSteps_append hlen.ge, hrun]
  rfl

/-- Settles O48: a run does not look past its moves, so after the first chunk only the second is left. -/
theorem chunkBoundariesInvisible : Obligations.ChunkBoundariesInvisible :=
  ⟨fun ms ns _ s hk => runSteps_append (s := { s with input := ms }) hk ns,
    fun xs ys s _ hrun => runSteps_secondChunk (s := { s with input := chunk xs }) rfl hrun ys,
    fun xs _ _ h => runSteps_chunk (inv_takeMove h (chunk xs)) rfl⟩

end Sys2Proof.Proofs

namespace Sys2Proof.Proofs

open Machine

/-! ## The two sums of `CK` (43_checksum.md R110 to R114) -/

theorem byte_ofNat_succ (n : Nat) : BitVec.ofNat 8 (n + 1) = BitVec.ofNat 8 n + 1 := BitVec.ofNat_add n 1

/-- The loop of `CK` from any start: `A` is added to, and the start's `A` enters `B` once for each byte. -/
theorem foldl_ckStep (acc : Byte × Byte) (l : List Byte) :
    l.foldl ckStep acc = (acc.1 + (ck l).1, acc.2 + BitVec.ofNat 8 l.length * acc.1 + (ck l).2) := by
  induction l generalizing acc with
  | nil => simp [ck]
  | cons b bs ih =>
    have hck : ck (b :: bs) = bs.foldl ckStep (ckStep (0, 0) b) := rfl
    rw [hck, List.foldl_cons, ih (ckStep acc b), ih (ckStep (0, 0) b), List.length_cons, byte_ofNat_succ]
    ext1 <;> simp only [ckStep] <;> ring

/-- `CK` of two runs of bytes: in `B` the first run counts once more for each byte of the second. -/
theorem ck_append (l m : List Byte) :
    ck (l ++ m) = ((ck l).1 + (ck m).1, (ck l).2 + BitVec.ofNat 8 m.length * (ck l).1 + (ck m).2) := by
  rw [ck, List.foldl_append]
  exact foldl_ckStep (ck l) m

/-- The first byte counts in `B` with its distance from the end, itself included. -/
theorem ck_cons (b : Byte) (l : List Byte) :
    ck (b :: l) = (b + (ck l).1, BitVec.ofNat 8 (l.length + 1) * b + (ck l).2) := by
  have hone : ck [b] = (b, b) := by simp [ck, ckStep]
  rw [← List.singleton_append, ck_append, hone, byte_ofNat_succ]
  ext1
  · rfl
  · ring

/-- The closed form with the sums taken over the naturals. -/
theorem ck_eq_ofNat_sum (s : List Byte) :
    ck s = (BitVec.ofNat 8 (∑ k ∈ Finset.range s.length, (s.getD k 0).toNat),
      BitVec.ofNat 8 (∑ k ∈ Finset.range s.length, (s.length - k) * (s.getD k 0).toNat)) := by
  induction s with
  | nil => rfl
  | cons b bs ih =>
    rw [ck_cons, ih]
    simp only [List.length_cons, Finset.sum_range_succ', List.getD_cons_succ, List.getD_cons_zero,
      Nat.add_sub_add_right, Nat.sub_zero, BitVec.ofNat_add, BitVec.ofNat_mul, BitVec.ofNat_toNat, BitVec.setWidth_eq]
    ext1 <;> ring

/-- Settles O36: the last byte is one turn of the loop, which is `Acc`. -/
theorem accExtendsChecksum : Obligations.AccExtendsChecksum := by
  refine ⟨rfl, fun bytes b s h => ?_⟩
  rw [ck_append_singleton, h]
  exact ⟨rfl, rfl⟩

/-- Settles O37: a byte is a natural modulo 256. -/
theorem checksumClosedForm : Obligations.ChecksumClosedForm := by
  intro s
  rw [ck_eq_ofNat_sum]
  exact ⟨BitVec.toNat_ofNat .., BitVec.toNat_ofNat ..⟩

/-! ## What the checksum detects (43_checksum.md R116) -/

/-- R116 (a): `A` counts every byte once, so it differs as the byte does. -/
theorem ck_fst_ne_of_changed (l r : List Byte) {x y : Byte} (h : x ≠ y) :
    (ck (l ++ x :: r)).1 ≠ (ck (l ++ y :: r)).1 := by
  simpa only [ck_append, ck_cons, ne_eq, BitVec.add_right_inj, BitVec.add_left_inj] using h

/-- R116 (c): the weights of three successive bytes have second difference 0. -/
theorem ck_successive_changes_cancel (l r : List Byte) (x y z d : Byte) :
    ck (l ++ (x + d) :: (y - 2 * d) :: (z + d) :: r) = ck (l ++ x :: y :: z :: r) := by
  simp only [ck_append, ck_cons, List.length_cons, byte_ofNat_succ]
  ext1 <;> ring

/-- R116 (c): 256 bytes apart the weights are equal modulo 256. -/
theorem ck_distant_changes_cancel (l m r : List Byte) (x y d : Byte) (hm : m.length = 255) :
    ck (l ++ (x + d) :: m ++ (y - d) :: r) = ck (l ++ x :: m ++ y :: r) := by
  have hweight : BitVec.ofNat 8 (m.length + 1) = 0 := by rw [hm]; rfl
  simp only [ck_append, ck_cons, List.length_cons, hweight]
  ext1 <;> ring

/-- Settles O38: `A` sees every change of one byte, and in the two patterns the weighted changes sum to 0 modulo 256. -/
theorem checksumDetection : Obligations.ChecksumDetection :=
  ⟨fun l r _ _ => ck_fst_ne_of_changed l r, ck_successive_changes_cancel, ck_distant_changes_cancel⟩

/-! ## A frame changed in one byte (43_checksum.md R115, R116) -/

/-- The checksum of some bytes is not that of bytes whose `A` differs. -/
theorem trailer_ne_of_fst_ne {a b : Byte} {s s' : List Byte} (hab : (a, b) = ck s) (h : (ck s).1 ≠ (ck s').1) :
    (a, b) ≠ ck s' := fun hab' => h (congrArg Prod.fst (hab.symm.trans hab'))

theorem ck_coveredBytes_fst_ne_of_class {c c' : Byte} (h : c ≠ c') (i : Byte) (p : List Byte) :
    (ck (coveredBytes c i p)).1 ≠ (ck (coveredBytes c' i p)).1 := ck_fst_ne_of_changed [] _ h

theorem ck_coveredBytes_fst_ne_of_id (c : Byte) {i i' : Byte} (h : i ≠ i') (p : List Byte) :
    (ck (coveredBytes c i p)).1 ≠ (ck (coveredBytes c i' p)).1 := ck_fst_ne_of_changed [c] _ h

theorem ck_coveredBytes_fst_ne_of_payload (c i : Byte) (l r : List Byte) {x y : Byte} (h : x ≠ y) :
    (ck (coveredBytes c i (l ++ x :: r))).1 ≠ (ck (coveredBytes c i (l ++ y :: r))).1 := by
  have hlen : (l ++ y :: r).length = (l ++ x :: r).length := by simp
  rw [coveredBytes, coveredBytes, hlen, ← List.append_assoc, ← List.append_assoc]
  exact ck_fst_ne_of_changed _ r h

/-- Settles O51: a changed covered byte changes `A`, a changed trailer byte is not the sum it stands for. -/
theorem corruptedFrameIsRejected : Obligations.CorruptedFrameIsRejected := by
  intro cfg c i c' i' a b p p' s hst hp hchange
  have hrejected : p'.length = p.length ∧ (a, b) ≠ ck (coveredBytes c' i' p') := by
    rcases hchange with ⟨hc, rfl, rfl, hab⟩ | ⟨rfl, hi, rfl, hab⟩ | ⟨rfl, rfl, ⟨l, x, y, r, rfl, rfl, hxy⟩, hab⟩ |
      ⟨rfl, rfl, rfl, ha, -⟩ | ⟨rfl, rfl, rfl, -, hb⟩
    · exact ⟨rfl, trailer_ne_of_fst_ne hab (ck_coveredBytes_fst_ne_of_class hc.symm _ _)⟩
    · exact ⟨rfl, trailer_ne_of_fst_ne hab (ck_coveredBytes_fst_ne_of_id _ hi.symm _)⟩
    · exact ⟨by simp, trailer_ne_of_fst_ne hab (ck_coveredBytes_fst_ne_of_payload _ _ l r hxy)⟩
    · exact ⟨rfl, fun hab => ha (congrArg Prod.fst hab)⟩
    · exact ⟨rfl, fun hab => hb (congrArg Prod.snd hab)⟩
  obtain ⟨hlen, hck⟩ := hrejected
  obtain ⟨t, hfeed, -⟩ := feed_frame_mismatch hst c' i' (hlen ▸ hp) hck
  exact ⟨t, hlen ▸ hfeed⟩

end Sys2Proof.Proofs

namespace Sys2Proof.Proofs

open Machine

/-! ## The registry lookup (44_demux_length.md R122) -/

theorem regEntry_key_eq_iff {e : RegEntry} {c i : Byte} : e.key = (c, i) ↔ e.eCls = c ∧ e.eId = i := Prod.mk_inj

/-- The loop of `RegLookup` ends without an answer exactly if no entry it passes has the key. -/
theorem regLookupFrom_eq_none_iff {c i : Byte} {es : List RegEntry} {n : Nat} :
    regLookupFrom c i es n = none ↔ ∀ e ∈ es, ¬ (e.eCls = c ∧ e.eId = i) := by
  induction es generalizing n with
  | nil => simp [regLookupFrom]
  | cons x xs ih =>
    simp only [regLookupFrom, Bool.and_eq_true, beq_iff_eq, List.forall_mem_cons]
    split
    next hx => exact ⟨nofun, fun ⟨hne, _⟩ => absurd hx hne⟩
    next hx => exact ih.trans (and_iff_right hx).symm

theorem regLookup_eq_none_iff {r : Registry} {c i : Byte} :
    regLookup r c i = none ↔ ∀ e ∈ r.entries, ¬ (e.eCls = c ∧ e.eId = i) := regLookupFrom_eq_none_iff

/-- Keys are unique (R6 (b)), so entries with one key stand at one index. -/
theorem entry_index_unique {r : Registry} {j k : Nat} {d e : RegEntry} (hd : r.entries[j]? = some d)
    (he : r.entries[k]? = some e) (h : d.key = e.key) : j = k := by
  obtain ⟨hj, -⟩ := List.getElem?_eq_some_iff.mp hd
  have hkeys : (r.entries.map RegEntry.key)[j]? = (r.entries.map RegEntry.key)[k]? := by
    simp only [List.getElem?_map, hd, he, Option.map_some, h]
  exact (List.getElem?_inj (by rwa [List.length_map]) r.unique).mp hkeys

/-- `RegLookup` answers exactly the entry that has the key: an entry that has it rules out the answer `ABSENT`, and any
other answer would be a second entry with that key. -/
theorem regLookup_eq_some_iff {r : Registry} {c i : Byte} {k : Nat} {e : RegEntry} :
    regLookup r c i = some (k, e) ↔ r.entries[k]? = some e ∧ e.key = (c, i) := by
  refine ⟨regLookup_some, fun ⟨hk, hkey⟩ => ?_⟩
  cases hfound : regLookup r c i with
  | none => exact absurd (regEntry_key_eq_iff.mp hkey) (regLookup_eq_none_iff.mp hfound e (List.mem_of_getElem? hk))
  | some found =>
    obtain ⟨j, d⟩ := found
    obtain ⟨hj, hdkey⟩ := regLookup_some hfound
    obtain rfl : j = k := entry_index_unique hj hk (hdkey.trans hkey.symm)
    obtain rfl : d = e := Option.some.inj (hj.symm.trans hk)
    rfl

/-- Settles O30: both answers of the lookup as equivalences. -/
theorem regLookupFindsExactKey : Obligations.RegLookupFindsExactKey := by
  refine fun r c i => ⟨fun k e => ?_, regLookup_eq_none_iff⟩
  rw [regLookup_eq_some_iff, regEntry_key_eq_iff]

/-! ## The length rules (44_demux_length.md R124, R125) -/

theorem lengthValid_fixed_iff {L n : U16} : lengthValid (.fixed L) n = true ↔ n = L := beq_iff_eq

theorem lengthValid_trailing_iff {P W n : U16} :
    lengthValid (.trailing P W) n = true ↔ P.toNat ≤ n.toNat ∧ (n.toNat - P.toNat) % W.toNat = 0 := by
  simp [lengthValid]

theorem groupCount_fixed (L n : U16) : groupCount (.fixed L) n = 0 := rfl

/-- A count of elements is at most the length, so it fits `ev_count`. -/
theorem groupCount_trailing_toNat (P W n : U16) :
    (groupCount (.trailing P W) n).toNat = (n.toNat - P.toNat) / W.toNat := by
  have hle : (n.toNat - P.toNat) / W.toNat ≤ n.toNat := (Nat.div_le_self ..).trans (Nat.sub_le ..)
  rw [groupCount, BitVec.toNat_ofNat, Nat.mod_eq_of_lt (hle.trans_lt n.isLt)]

/-! ## The event of an accepted frame (44_demux_length.md R123, R126 to R128) -/

section Demux

variable {r : Registry} {c i : Byte} {k : Nat} {e : RegEntry}

/-- R123: without an entry the payload passes through, and no length rule applies. -/
theorem demux_of_absent (h : regLookup r c i = none) (n : U16) (p : List Byte) :
    demux r c i n p = { kind := .unrecognized, evDef := 0, evCls := c, evId := i, evLen := n, evCount := 0,
                        payload := some p } := by
  rw [demux, h]

/-- R126 and R127: an entry found delivers or mismatches by its own length rule. -/
theorem demux_of_found (h : regLookup r c i = some (k, e)) (n : U16) (p : List Byte) :
    if lengthValid e.eRule n = true then
      (demux r c i n p).kind = .deliver ∧ (demux r c i n p).evCount = groupCount e.eRule n ∧
        (demux r c i n p).payload = some p
    else
      (demux r c i n p).kind = .lengthMismatch ∧ (demux r c i n p).evCount = 0 ∧ (demux r c i n p).payload = none := by
  rw [demux, h]
  dsimp only
  split <;> exact ⟨rfl, rfl, rfl⟩

/-- The definition index is that of the entry found, delivered or not. -/
theorem demux_evDef_of_found (h : regLookup r c i = some (k, e)) (n : U16) (p : List Byte) :
    (demux r c i n p).evDef.toNat = k := by
  have hdef : (demux r c i n p).evDef = BitVec.ofNat 16 k := by
    rw [demux, h]
    dsimp only
    split <;> rfl
  rw [hdef]
  exact (registrySizeBound r).2 c i k e h

/-- A delivery is of an entry found whose length rule holds. -/
theorem exists_lengthValid_of_deliver {n : U16} {p : List Byte} (h : (demux r c i n p).kind = .deliver) :
    ∃ k e, regLookup r c i = some (k, e) ∧ lengthValid e.eRule n = true := by
  cases hfound : regLookup r c i with
  | none =>
    rw [demux_of_absent hfound] at h
    cases h
  | some found =>
    obtain ⟨k, e⟩ := found
    refine ⟨k, e, rfl, by_contra fun hvalid => ?_⟩
    have hevent := demux_of_found hfound n p
    rw [if_neg hvalid, h] at hevent
    cases hevent.1

/-- R124: the event by `Fixed(L)`. -/
theorem demux_of_fixed {L : U16} (h : regLookup r c i = some (k, e)) (hrule : e.eRule = .fixed L) (n : U16)
    (p : List Byte) :
    if n = L then
      (demux r c i n p).kind = .deliver ∧ (demux r c i n p).evCount = 0 ∧ (demux r c i n p).payload = some p
    else
      (demux r c i n p).kind = .lengthMismatch ∧ (demux r c i n p).evCount = 0 ∧ (demux r c i n p).payload = none := by
  simpa only [hrule, lengthValid_fixed_iff, groupCount_fixed] using demux_of_found h n p

/-- R125: the event by `Trailing(P, W)`. -/
theorem demux_of_trailing {P W : U16} (h : regLookup r c i = some (k, e)) (hrule : e.eRule = .trailing P W) (n : U16)
    (p : List Byte) :
    if P.toNat ≤ n.toNat ∧ (n.toNat - P.toNat) % W.toNat = 0 then
      (demux r c i n p).kind = .deliver ∧ (demux r c i n p).evCount.toNat = (n.toNat - P.toNat) / W.toNat ∧
        (demux r c i n p).payload = some p
    else
      (demux r c i n p).kind = .lengthMismatch ∧ (demux r c i n p).evCount = 0 ∧ (demux r c i n p).payload = none := by
  have hevent := demux_of_found h n p
  simp only [hrule, lengthValid_trailing_iff] at hevent
  split
  next hvalid =>
    rw [if_pos hvalid] at hevent
    obtain ⟨hkind, hcount, hpayload⟩ := hevent
    exact ⟨hkind, by rw [hcount, groupCount_trailing_toNat], hpayload⟩
  next hvalid => rwa [if_neg hvalid] at hevent

end Demux

theorem pushReadChecksumB_accepts {cfg : Config} {b : Byte} {s : State} (h : s.rxCkA = s.ckA ∧ b = s.ckB) :
    pushReadChecksumB cfg b s = .next { idle s with rxEvent := some (acceptEvent cfg s) } := by
  rw [pushReadChecksumB_eq, if_pos h]

/-- Settles O31: the event is the demultiplexer's, by the lookup's answer and the entry's rule. -/
theorem acceptedFrameEvent : Obligations.AcceptedFrameEvent := by
  intro cfg b s hckA hckB
  refine ⟨_, acceptEvent cfg s, pushReadChecksumB_accepts ⟨hckA, hckB⟩, rfl, demux_evCls .., demux_evId .., demux_evLen ..,
    fun habsent => ?_, fun k entry hfound => ⟨demux_evDef_of_found hfound _ _,
      fun L hrule => demux_of_fixed hfound hrule _ _, fun P W hrule => demux_of_trailing hfound hrule _ _⟩⟩
  rw [acceptEvent, demux_of_absent habsent]
  exact ⟨rfl, rfl, rfl, rfl⟩

/-! ## Entries above the capacity (44_demux_length.md R129) -/

/-- In the table of R92 only an accepted frame may be delivered. -/
theorem accepts_of_deliver_mem_tableEvents {cfg : Config} {s : State} {b : Byte}
    (h : EventKind.deliver ∈ tableEvents cfg s b) : s.st = .readChecksumB ∧ s.rxCkA = s.ckA ∧ b = s.ckB := by
  unfold tableEvents at h
  split at h
  · split at h <;> simp at h
  next hst =>
    split at h
    next hck => exact ⟨hst, hck⟩
    next => simp at h
  · simp at h

/-- A `PUSH` that delivers is the last byte of an accepted frame, and the event is that frame's. -/
theorem push_deliver {cfg : Config} {b : Byte} {s t : State} {e : Event} (h : push cfg b s = .next t)
    (he : t.rxEvent = some e) (hkind : e.kind = .deliver) : s.st = .readChecksumB ∧ e = acceptEvent cfg s := by
  obtain ⟨-, ⟨e', he', hmem⟩, -⟩ := push_next_table h
  obtain rfl : e' = e := Option.some.inj (he'.symm.trans he)
  rw [hkind] at hmem
  obtain ⟨hst, hck⟩ := accepts_of_deliver_mem_tableEvents hmem
  have hpush : push cfg b s = .next { idle s with rxEvent := some (acceptEvent cfg s) } := by
    rw [push_eq_pushRule, hst]
    exact pushReadChecksumB_accepts hck
  rw [hpush] at h
  cases h
  exact ⟨hst, (Option.some.inj he).symm⟩

/-- Settles O32: the length rule bounds the fixed part by the frame's length, which fits by (I3). -/
theorem oversizeEntriesNeverDelivered : Obligations.OversizeEntriesNeverDelivered := by
  intro cfg b s t e hinv hpush he hkind
  obtain ⟨hst, rfl⟩ := push_deliver hpush he hkind
  obtain ⟨k, entry, hfound, hvalid⟩ := exists_lengthValid_of_deliver hkind
  have hfits : s.len.toNat ≤ cfg.pCap.val := hinv.fits (by simp [hst, lengthAccepted])
  refine ⟨entry, ?_, fun L hrule => ?_, fun P W hrule => ?_⟩
  · rw [acceptEvent, demux_evDef_of_found hfound]
    exact (regLookup_some hfound).1
  · rw [hrule, lengthValid_fixed_iff] at hvalid
    rwa [← hvalid]
  · rw [hrule, lengthValid_trailing_iff] at hvalid
    exact hvalid.1.trans hfits

end Sys2Proof.Proofs

namespace Sys2Proof.Proofs

open Machine

/-! ## What a transmit transaction does (45_tx_framer.md R140, R141, R144) -/

theorem lowByte_ofNat (n : Nat) : lowByte (BitVec.ofNat 16 n) = BitVec.ofNat 8 (n % 256) := by
  apply BitVec.eq_of_toNat_eq
  rw [lowByte_toNat, BitVec.toNat_ofNat, BitVec.toNat_ofNat]
  omega

/-- The covered bytes with the length bytes as numbers (R60, R140). -/
theorem coveredBytes_eq_of_length_le (c i : Byte) {p : List Byte} (h : p.length ≤ 65535) :
    coveredBytes c i p = [c, i, BitVec.ofNat 8 (p.length % 256), BitVec.ofNat 8 (p.length / 256)] ++ p := by
  rw [coveredBytes, frameHeader, lowByte_ofNat, highByte_ofNat h]

/-- A refused transaction puts nothing on the stream out (R141). -/
theorem txReport_tooLong (s : State) : txReport .tooLong s = { s with txResult := some .tooLong } := by
  rw [txReport, TxResult.bytes, List.append_nil]

/-- Settles O13: the report of either outcome, with the header's length bytes as numbers. -/
theorem txFrameResult : Obligations.TxFrameResult := by
  intro c i p s
  rw [exec_txFrame, txOutcome]
  split
  next => rw [txReport_tooLong]
  next hlen =>
    rw [frame, coveredBytes_eq_of_length_le c i (by omega), ← List.append_assoc]
    rfl

/-- Settles O22: the report of a result leaves every field of RX and of the host's side. -/
theorem txLeavesRx : Obligations.TxLeavesRx := fun c i p s =>
  ⟨txReport (txOutcome block c i p) s, exec_txFrame c i p s, by simp⟩

/-! ## What an RX instruction leaves unchanged (45_tx_framer.md R143, 00_scope.md R7) -/

/-- TX's outputs and the host's side of a state: all that is not RX's. -/
def txAndPorts (s : State) : Option TxResult × List Byte × List HostMove × Option Byte × Nat :=
  (s.txResult, s.txStream, s.input, s.readData, s.freeCount)

theorem pushRule_next_txAndPorts {cfg : Config} {st : RxState} {b : Byte} {s t : State}
    (h : pushRule cfg st b s = .next t) : txAndPorts t = txAndPorts s := by
  cases st with
  | seekSync1 | readClass | readId | readLenLow | readChecksumA =>
    cases h
    rfl
  | seekSync2 =>
    simp only [pushRule, pushSeekSync2_eq] at h
    cases h
    split <;> rfl
  | readLenHigh =>
    simp only [pushRule, pushReadLenHigh_eq] at h
    cases h
    split <;> rfl
  | readPayload =>
    obtain ⟨-, rfl⟩ := pushReadPayload_next h
    rw [payloadStage_eq]
    rfl
  | readChecksumB =>
    simp only [pushRule, pushReadChecksumB_eq] at h
    cases h
    split <;> rfl

theorem exec_rx_next_txAndPorts {i : Instr} {s t : State} (hrx : isRx i = true) (h : exec i s = .next t) :
    txAndPorts t = txAndPorts s := by
  rcases exec_rx_cases hrx s with hflush | hreserved | ⟨st, b, hrule, -⟩
  · rw [hflush] at h
    cases h
    rfl
  · rw [hreserved] at h
    cases h
    rfl
  · rw [hrule s rfl] at h
    exact pushRule_next_txAndPorts h

/-- Settles O21: the fields of `txAndPorts` one by one. -/
theorem rxLeavesTxAndPorts : Obligations.RxLeavesTxAndPorts := by
  intro i s t hrx h
  simpa only [txAndPorts, Prod.mk.injEq] using exec_rx_next_txAndPorts hrx h

/-! ## Bytes fed to the parser as moves of the machine (42_rx_control.md R102) -/

/-- A run of bytes that completes begins with a `PUSH` that completes. -/
theorem feed_cons_some {cfg : Config} {b : Byte} {bs : List Byte} {s t : State} {es : List (Option Event)}
    (h : feed cfg (b :: bs) s = some (t, es)) :
    ∃ u fs, push cfg b s = .next u ∧ feed cfg bs u = some (t, fs) ∧ es = u.rxEvent :: fs := by
  rw [feed] at h
  split at h
  next u hu =>
    obtain ⟨⟨t', fs⟩, hbs, heq⟩ := Option.map_eq_some_iff.mp h
    cases heq
    exact ⟨u, fs, hu, hbs, rfl⟩
  · cases h
  · cases h

/-- The step of a byte that `PUSH` takes in `s`, whatever the moves to come. -/
theorem step_of_push {b : Byte} {s u : State} (h : push block b s = .next u) (rest : List HostMove) :
    step { s with input := .rx (cmdWord 0 b) :: rest } = .next { u with input := rest } := by
  have hmapped : exec (.push b) { s with input := rest } =
      andThen (exec (.push b) s) (fun t => .next { t with input := rest }) := exec_mapInput (.push b) (fun _ => rest) s
  rw [step_rx rfl, decodeCommand_push, hmapped, exec_push, h]
  rfl

section Fed

variable {xs : List Byte} {s t : State} {es : List (Option Event)} (h : feed block xs s = some (t, es))
  (rest : List HostMove)

include h

/-- The machine runs a chunk to the state the bytes are fed to. -/
theorem runSteps_fed : runSteps xs.length { s with input := chunk xs ++ rest } = .next { t with input := rest } := by
  induction xs generalizing s es with
  | nil =>
    cases h
    rfl
  | cons b bs ih =>
    obtain ⟨u, fs, hpush, hfeed, -⟩ := feed_cons_some h
    exact (runSteps_succ_of_step (step_of_push hpush (chunk bs ++ rest)) bs.length).trans (ih hfeed)

/-- Each of its steps emits the event of its byte. -/
theorem runSteps_fed_event {k : Nat} {e : Option Event} (hk : es[k]? = some e) :
    ∃ u, runSteps (k + 1) { s with input := chunk xs ++ rest } = .next u ∧ u.rxEvent = e := by
  induction xs generalizing s es k with
  | nil =>
    cases h
    cases hk
  | cons b bs ih =>
    obtain ⟨u, fs, hpush, hfeed, rfl⟩ := feed_cons_some h
    have hstep := step_of_push hpush (chunk bs ++ rest)
    cases k with
    | zero => exact ⟨_, runSteps_succ_of_step hstep 0, Option.some.inj hk⟩
    | succ k =>
      obtain ⟨v, hrun, hv⟩ := ih hfeed hk
      exact ⟨v, (runSteps_succ_of_step hstep (k + 1)).trans hrun, hv⟩

end Fed

/-- Bytes that are silent up to the last are silent steps up to the last. -/
theorem runSteps_fed_silent {xs : List Byte} {s t : State} {n : Nat} {e : Event}
    (h : feed block xs s = some (t, List.replicate n (some .silent) ++ [some e])) (rest : List HostMove) :
    (∀ k, 0 < k → k < n + 1 →
      ∃ u, runSteps k { s with input := chunk xs ++ rest } = .next u ∧ u.rxEvent = some .silent) ∧
    ∃ u, runSteps (n + 1) { s with input := chunk xs ++ rest } = .next u ∧ u.rxEvent = some e := by
  refine ⟨fun k hpos hk => ?_, runSteps_fed_event h rest (by simp)⟩
  obtain ⟨j, rfl⟩ := Nat.exists_eq_add_one.mpr hpos
  have hj : j < n := Nat.lt_of_succ_lt_succ hk
  exact runSteps_fed_event h rest (by simp [List.getElem?_append_left, hj])

/-! ## The round trip (45_tx_framer.md R142) -/

/-- A frame begins with the sync pair and the header (R60). -/
theorem frame_eq_header_append (cfg : Config) (c i : Byte) (p : List Byte) :
    frame cfg c i p = ([cfg.sync1, cfg.sync2] ++ frameHeader c i (BitVec.ofNat 16 p.length)) ++
      (p ++ [(ck (coveredBytes c i p)).1, (ck (coveredBytes c i p)).2]) := rfl

/-- Settles O50: what the parser does with the frame's bytes, run as moves of the machine. -/
theorem transmittedFrameIsReceived : Obligations.TransmittedFrameIsReceived := by
  intro c i p s rest hst hlen hin
  have hs : s = { s with input := chunk (frame block c i p) ++ rest } := by rw [← hin]
  rw [hs]
  split
  next hp =>
    obtain ⟨t, hfeed, hregs, ht⟩ := feed_frame hst c i hp
    obtain ⟨hsilent, u, hrun, hevent⟩ := runSteps_fed_silent hfeed rest
    have hend := runSteps_fed hfeed rest
    rw [frame_length] at hend
    cases hrun.symm.trans hend
    exact ⟨hsilent, _, hend, ht, hregs, rfl, hevent⟩
  next hp =>
    have hbig : block.pCap.val < (BitVec.ofNat 16 p.length).toNat := by
      rw [toNat_ofNat_length hlen]
      omega
    obtain ⟨t, hfeed, -, -⟩ := feed_header_oversize hst c i hbig
    rw [frame_eq_header_append, chunk_append, List.append_assoc]
    exact runSteps_fed_silent hfeed _

end Sys2Proof.Proofs

namespace Sys2Proof.Proofs

open Machine

/-! ## No stop from a state that meets the invariant (60_exceptions.md R152, 20_memory.md R46) -/

/-- No command of the RX port stops: of the three kinds only `PUSH` could, and the invariant keeps its write index inside. -/
theorem exec_decodeCommand_completes {s : State} (h : Inv block s) (w : CmdWord) :
    ∃ t, exec (decodeCommand w) s = .next t := by
  rcases decodeCommand_cases w with ⟨b, hw⟩ | ⟨data, hw⟩ | hw <;> rw [hw]
  · exact push_completes_of_inv h b
  · exact ⟨_, exec_flush data s⟩
  · exact ⟨_, exec_reserved w s⟩

/-- Settles O18, by the host's next move. -/
theorem noStepStopsFromInvariant : Obligations.NoStepStopsFromInvariant := by
  intro s h
  match hin : s.input with
  | [] => exact ⟨_, step_pause hin⟩
  | .rx w :: rest =>
    rw [step_rx hin]
    exact exec_decodeCommand_completes (inv_takeMove h rest) w
  | .tx c i p :: rest =>
    rw [step_tx hin]
    exact ⟨_, exec_txFrame c i p _⟩
  | .rst presented :: rest => exact ⟨_, step_rst hin⟩
  | .bufRead k :: rest => exact ⟨_, step_bufRead hin⟩

/-! ## The paths that report an event (60_exceptions.md R154) -/

/-- A rule of the parser that reports is the length reject of R87 or the outcome of R90. -/
theorem pushRule_reports {cfg : Config} {st : RxState} {b : Byte} {s t : State} {e : Event}
    (h : pushRule cfg st b s = .next t) (he : t.rxEvent = some e) (hkind : e.kind ≠ .quiet) :
    st = .readLenHigh ∧ e = .bare .rejectOversize ∨ st = .readChecksumB := by
  cases st with
  | seekSync1 | seekSync2 | readClass | readId | readLenLow | readChecksumA =>
    cases h
    cases he
    exact absurd rfl hkind
  | readLenHigh =>
    simp only [pushRule, pushReadLenHigh_eq] at h
    cases h
    split at he <;> cases he
    · exact .inl ⟨rfl, rfl⟩
    · exact absurd rfl hkind
  | readPayload =>
    obtain ⟨-, rfl⟩ := pushReadPayload_next h
    cases he
    exact absurd rfl hkind
  | readChecksumB => exact .inr rfl

/-- Settles O28: a flush and the rows of the other states emit `NONE`, and `PUSH` reports where the row of its state does. -/
theorem onlyThreePathsReport : Obligations.OnlyThreePathsReport := by
  intro i s t e hrx h he hkind
  cases i with
  | push b =>
    rw [exec_push, push_eq_pushRule] at h
    rcases pushRule_reports h he hkind with ⟨hst, hevent⟩ | hst
    · exact .inl ⟨b, .inr ⟨rfl, hst⟩, hevent⟩
    · exact .inr (.inl ⟨b, .inr ⟨rfl, hst⟩⟩)
  | pushReadLenHigh b =>
    rcases pushRule_reports (st := .readLenHigh) h he hkind with ⟨-, hevent⟩ | hst
    · exact .inl ⟨b, .inl rfl, hevent⟩
    · cases hst
  | pushReadChecksumB b => exact .inr (.inl ⟨b, .inl rfl⟩)
  | reserved w =>
    cases h
    cases he
    exact .inr (.inr ⟨w, rfl, rfl⟩)
  | pushReadPayload b =>
    rcases pushRule_reports (st := .readPayload) h he hkind with ⟨hst, -⟩ | hst <;> cases hst
  | flush | pushSeekSync1Sync | pushSeekSync1Other | pushSeekSync2Sync | pushSeekSync2Other | pushReadClass | pushReadId
  | pushReadLenLow | pushReadChecksumA =>
    cases h
    cases he
    exact absurd rfl hkind
  | txFrame c m p => cases hrx

/-! ## Recovery (60_exceptions.md R152) -/

/-- How many more bytes the frame in progress can take at most: the header bytes still missing, a payload that may fill the
buffer until its length is known, and the trailer. No byte when RX seeks. -/
def bytesToSeek (cfg : Config) (s : State) : Nat :=
  match s.st with
  | .seekSync1 | .seekSync2 => 0
  | .readClass => cfg.pCap.val + 6
  | .readId => cfg.pCap.val + 5
  | .readLenLow => cfg.pCap.val + 4
  | .readLenHigh => cfg.pCap.val + 3
  | .readPayload => s.len.toNat - s.cnt.toNat + 2
  | .readChecksumA => 2
  | .readChecksumB => 1

section BytesToSeek

variable {cfg : Config} {s : State}

theorem bytesToSeek_eq_zero_iff : bytesToSeek cfg s = 0 ↔ frameInProgress s = false := by
  unfold bytesToSeek frameInProgress
  cases s.st <;> simp

/-- The longest way starts in `ReadClass`, since (I3) bounds a payload. -/
theorem bytesToSeek_le (h : Inv cfg s) : bytesToSeek cfg s ≤ cfg.pCap.val + 6 := by
  have hfits := h.fits
  unfold bytesToSeek
  cases hst : s.st
  case readPayload =>
    have : s.len.toNat ≤ cfg.pCap.val := hfits (by simp [hst, lengthAccepted])
    dsimp only
    omega
  all_goals simp

theorem bytesToSeek_of_seeking (h : s.st = .seekSync1 ∨ s.st = .seekSync2) : bytesToSeek cfg s = 0 := by
  unfold bytesToSeek
  rcases h with h | h <;> rw [h]

/-- Every byte of a frame in progress shortens the way, row by row of R92: a reject and an accepted frame end it. -/
theorem bytesToSeek_push (h : Inv cfg s) (hbusy : frameInProgress s = true) {b : Byte} {t : State}
    (ht : push cfg b s = .next t) : bytesToSeek cfg t < bytesToSeek cfg s := by
  have hpos : 0 < bytesToSeek cfg s := Nat.pos_of_ne_zero fun hzero => by simp [bytesToSeek_eq_zero_iff.1 hzero] at hbusy
  rcases push_cases ht with ⟨hst, rfl⟩ | ⟨hst, -, rfl⟩ | ⟨hst, -, rfl⟩ | ⟨hst, rfl⟩ | ⟨hst, rfl⟩ | ⟨hst, rfl⟩ |
    ⟨-, -, rfl⟩ | ⟨hst, hfits, rfl⟩ | ⟨hst, -, rfl⟩ | ⟨hst, rfl⟩ | ⟨-, -, rfl⟩ | ⟨-, -, rfl⟩
  · simp [frameInProgress, hst] at hbusy
  · simp [frameInProgress, hst] at hbusy
  · simp [frameInProgress, hst] at hbusy
  · simp [bytesToSeek, hst]
  · simp [bytesToSeek, hst]
  · simp [bytesToSeek, hst]
  · exact (bytesToSeek_of_seeking (rejectState_seeks cfg b)).trans_lt hpos
  · by_cases hzero : lenWithHigh b s.len = 0
    · simp [bytesToSeek, hst, hzero]
    · simp only [bytesToSeek, hst, if_neg hzero]
      omega
  · have hcount : s.cnt.toNat < s.len.toNat := h.counting hst
    by_cases hend : s.cnt + 1 = s.len
    · simp only [bytesToSeek, hst, if_pos hend]
      omega
    · have hnext : (s.cnt + 1).toNat = s.cnt.toNat + 1 := by bv_omega
      simp only [bytesToSeek, hst, if_neg hend, hnext]
      omega
  · simp [bytesToSeek, hst]
  · exact (bytesToSeek_of_seeking (.inl rfl)).trans_lt hpos
  · exact (bytesToSeek_of_seeking (rejectState_seeks cfg b)).trans_lt hpos

/-- RX seeks again after no more bytes than that. -/
theorem feed_reaches_seeking {bytes : List Byte} (h : Inv cfg s) (hlen : bytesToSeek cfg s ≤ bytes.length) :
    ∃ k, k ≤ bytesToSeek cfg s ∧ ∃ t es, feed cfg (bytes.take k) s = some (t, es) ∧ frameInProgress t = false := by
  induction bytes generalizing s with
  | nil => exact ⟨0, Nat.zero_le _, s, [], rfl, bytesToSeek_eq_zero_iff.1 (Nat.le_zero.1 hlen)⟩
  | cons b bs ih =>
    by_cases hseek : frameInProgress s = false
    · exact ⟨0, Nat.zero_le _, s, [], rfl, hseek⟩
    · obtain ⟨u, hu⟩ := push_completes_of_inv h b
      have hless : bytesToSeek cfg u < bytesToSeek cfg s := bytesToSeek_push h (Bool.eq_true_of_not_eq_false hseek) hu
      rw [List.length_cons] at hlen
      obtain ⟨k, hk, t, es, hfeed, ht⟩ := ih (inv_push h hu) (by omega)
      refine ⟨k + 1, by omega, t, u.rxEvent :: es, ?_, ht⟩
      rw [List.take_succ_cons, feed_cons _ hu, hfeed]
      rfl

end BytesToSeek

/-- Settles O55: the bytes by `feed_reaches_seeking`, the `FLUSH` by its own rule. -/
theorem receiverRecovers : Obligations.ReceiverRecovers := by
  intro cfg s h
  refine ⟨fun bytes hlen => ?_, fun data => ⟨_, exec_flush data s, rfl⟩⟩
  have hbound : bytesToSeek cfg s ≤ cfg.pCap.val + 6 := bytesToSeek_le h
  obtain ⟨k, hk, hfeed⟩ := feed_reaches_seeking h (hbound.trans_eq hlen.symm)
  exact ⟨k, hk.trans hbound, hfeed⟩

end Sys2Proof.Proofs

namespace Sys2Proof.Proofs

open Machine

/-! ## The reset input (70_reset_and_hazards.md R170) -/

/-- `rst` is `Idle()` without an event: it touches the RX registers and the event record only. -/
theorem applyReset_eq (s : State) :
    applyReset s =
      { s with st := .seekSync1, cls := 0, id := 0, len := 0, cnt := 0, ckA := 0, ckB := 0, rxCkA := 0,
               rxEvent := none } := rfl

/-- Settles O15: the step is `applyReset` after the move, whatever command stands with `rst` (R103). -/
theorem resetInputResult : Obligations.ResetInputResult := by
  intro s presented rest hin
  rw [step_rst hin, applyReset_eq]

end Sys2Proof.Proofs
